-- ==== Sys2Proof/Word.lean ====
section
/-! DEFINITION. The word types of the Lathor 3212: bytes of lines and frames, words of the local port, numbers of
slots, masks of byte positions. -/

namespace Sys2Proof

/-- One byte of a line or of a frame. -/
abbrev Byte := BitVec 8

/-- One word of the local port, bit 31 the most significant (00_scope 0.7). -/
abbrev Word := BitVec 32

/-- A slot of the Outstanding Table, 0 to 15 (R60). -/
abbrev SlotNo := Fin 16

/-- A set of byte positions of a line as a DELTA carries it: the most significant bit is position 0 (R199). -/
abbrev Mask := BitVec 32

end Sys2Proof
end

