-- ==== Sys2Proof/Syntax.lean ====
section
/-! DEFINITION. The commands: one constructor per row of spec/opcode_table.json, with the row's operands. -/

namespace Sys2Proof

/-- What storage faults have left in the cells of a line: its 32 bytes and its check code. The spec lets a line of local
storage fail its check (R97) and names no event for the failure, so every claim that verifies carries one: `none` when
the cells hold what was last written to them. Log 5. -/
structure Upset where
  bytes : Vector Byte 32
  code : BitVec 16
deriving DecidableEq, Repr

/-- What ends a frame in reception before its END (R131). Loss of carrier is the row CARRIER_LOST. -/
inductive BreakCause where
  | start
  | idle
  | invalid
  | byte59
deriving DecidableEq, Repr

/-- The frame boundary on ring-out at which a station becomes active (R137): between frames or in silence, the END of
the frame repeated, or the frame broken off, by a START or otherwise. -/
inductive FrameBoundary where
  | atOnce
  | frameEnd
  | brokenByStart
  | brokenOtherwise
deriving DecidableEq, Repr

/-- The commands of the 3212. Each is one indivisible step (95_what_each_step_holds). -/
inductive Instr where
  | reset
  | resetRelease
  | clearingPassClaim
  | replicaRead (la : BitVec 15) (lhold : Bool)
  | readClaimGranted (upset : Option Upset)
  | replicaWrite (la : BitVec 15) (be : BitVec 4) (ld : Word) (lhold : Bool)
  | writeClaimGranted (upset : Option Upset)
  | configWrite (word : BitVec 2) (value : Word)
  | start (arg : BitVec 16)
  | leave (arg : BitVec 16)
  | drain (arg : BitVec 16)
  | watch (line : BitVec 16)
  | unwatch (line : BitVec 16)
  | query (line : BitVec 16)
  | intenable (arg : BitVec 16)
  | unknownCommand (value : Word)
  | statusRead
  | noticeRead
  | readOnlyWrite (offset : BitVec 6) (be : BitVec 4) (value : Word)
  | unassignedAccess (la : BitVec 16) (write : Bool)
  | lholdDeasserted
  | holdBreak
  | frameReceivedWhole (bytes : List Byte) (sent : Nat)
  | receptionBrokenOff (cause : BreakCause)
  | carrierLost
  | carrierRegained
  | outputArbiterChoice
  | insertionComplete
  | switchToActive (boundary : FrameBoundary)
  | switchToPassThrough
  | framerChoice
  | postBuild (upset : Option Upset)
  | mendResendBuild (upset : Option Upset)
  | replacementBuild (upset : Option Upset)
  | answerBuild (upset : Option Upset)
  | sweepRefreshFetch (upset : Option Upset)
  | applyFull
  | applyDelta (upset : Option Upset)
  | updateDeadline (slot : SlotNo)
  | repairDeadline (slot : SlotNo)
  | probeLost
  | probeIntervalExpiry
  | sweepTick
  | frameInReceptionBegins
  | passThroughRepeatBegins
deriving DecidableEq, Repr

end Sys2Proof
end

