-- ==== Sys2Proof/WellFormed.lean ====
section
/-! DEFINITION. Which terms of `Instr` are commands of the table: the operands meet the row's description. The operand
types say the rest (a word of the replica window has 15 address bits, a slot is 0 to 15). -/

namespace Sys2Proof

/-- The command codes of the command word (R178, R201): 1 START to 7 INTENABLE. -/
def knownCommand (value : Word) : Bool :=
  let code := (value >>> 24).toNat
  1 ≤ code && code ≤ 7

/-- An offset of the control window that holds a read-only word (11.4): command result to notice word 2. -/
def readOnlyOffset (offset : BitVec 6) : Bool := 5 ≤ offset.toNat && offset.toNat ≤ 12

/-- An offset of the control window to which the table assigns a word (R201). -/
def assignedOffset (offset : BitVec 6) : Bool := offset.toNat ≤ 12

/-- Whether a term is a command of the table.
* READ_ONLY_WRITE: a write to a read-only word, or to any assigned word with a byte enable deasserted (R177).
* UNASSIGNED_ACCESS: a word address of the unassigned ones, 32,781 and above (R172, R201).
* UNKNOWN_COMMAND: a code that names no command (R178).
* FRAME_RECEIVED_WHOLE: at most 58 bytes, since a 59th breaks the reception off (R131). -/
def Instr.wellFormed : Instr → Bool
  | .readOnlyWrite offset be _ => readOnlyOffset offset || (assignedOffset offset && be != 15#4)
  | .unassignedAccess la _ => 32781 ≤ la.toNat
  | .unknownCommand value => !knownCommand value
  | .frameReceivedWhole bytes _ => bytes.length ≤ 58
  | .reset | .resetRelease | .clearingPassClaim | .replicaRead _ _ | .readClaimGranted _ | .replicaWrite _ _ _ _
  | .writeClaimGranted _ | .configWrite _ _ | .start _ | .leave _ | .drain _ | .watch _ | .unwatch _ | .query _
  | .intenable _ | .statusRead | .noticeRead | .lholdDeasserted | .holdBreak | .receptionBrokenOff _ | .carrierLost
  | .carrierRegained | .outputArbiterChoice | .insertionComplete | .switchToActive _ | .switchToPassThrough
  | .framerChoice | .postBuild _ | .mendResendBuild _ | .replacementBuild _ | .answerBuild _ | .sweepRefreshFetch _
  | .applyFull | .applyDelta _ | .updateDeadline _ | .repairDeadline _ | .probeLost | .probeIntervalExpiry | .sweepTick
  | .frameInReceptionBegins | .passThroughRepeatBegins => true

end Sys2Proof
end

