-- ==== Sys2Proof/Decode.lean ====
section
/-! DEFINITION. Reading a command. No row of spec/opcode_table.json gives its command any bits ("fields" is empty in all 45 and
none has "fixed"), so no word of the table spells a command. An access at the local port does: by its word address, its byte
enables and, at the command word, by the fields of the word written (R172, R177, R178, R201). -/

namespace Sys2Proof

/-- The command that the `nbits` bits `w` spell: none, since no row of the table gives bits. Log 28. -/
def decodeTableWord (_nbits _w : Nat) : Option Instr := none

/-- The command that a full-word write of the command word gives: its code in bits 31 to 24, its argument in bits 15 to 0 (R178,
R201). -/
def commandOfWord (value : Word) : Instr :=
  let arg := value.extractLsb' 0 16
  match (value.extractLsb' 24 8).toNat with
  | 1 => .start arg
  | 2 => .leave arg
  | 3 => .drain arg
  | 4 => .watch arg
  | 5 => .unwatch arg
  | 6 => .query arg
  | 7 => .intenable arg
  | _ => .unknownCommand value

/-- The command that a write access at a word address gives: a word of the replica window, a configuration word at offsets 0 to 3,
the command word at 4, a write that has no effect elsewhere or with a byte enable deasserted (R172, R177, R201). -/
def writeCommand (la : BitVec 16) (be : BitVec 4) (ld : Word) (lhold : Bool) : Instr :=
  let offset := la.setWidth 6
  if la.toNat < 32768 then .replicaWrite (la.setWidth 15) be ld lhold
  else if 32781 ≤ la.toNat then .unassignedAccess la true
  else if readOnlyOffset offset || be != 15#4 then .readOnlyWrite offset be ld
  else if offset.toNat = 4 then commandOfWord ld
  else .configWrite (offset.setWidth 2) ld

/-- The command that a read access at a word address gives: the reads that wait or act, and those that find no word (R172, R177);
none for the other words of the control window, whose read only returns `State.controlWord` (log 24). -/
def readCommand (la : BitVec 16) (lhold : Bool) : Option Instr :=
  if la.toNat < 32768 then some (.replicaRead (la.setWidth 15) lhold)
  else if 32781 ≤ la.toNat then some (.unassignedAccess la false)
  else if la.toNat = 32774 then some .statusRead
  else if la.toNat = 32780 then some .noticeRead
  else none

end Sys2Proof
end

