-- ==== Sys2Proof/Config.lean ====
section
/-! DEFINITION. The free values: what the manual leaves open. None has a body, so no proof can see its value. -/

namespace Sys2Proof

/-- The byte at an address of the replica while RESET is asserted and until the clearing pass has written its line: the
replica bytes are then undefined (R13). The first argument is the count of resets. Log 6. -/
opaque Config.undefinedByte : Nat → Nat → Byte

/-- The check code of a line in the same time (R13, R14). The first argument is the count of resets. Log 6. -/
opaque Config.undefinedCode : Nat → Nat → BitVec 16

/-- Whether the first of two notices that one step gives in no stated order is queued first (R190). Log 10. -/
opaque Config.firstNoticeFirst : Nat → Bool

/-- The place at which an event joins the events reached on the same Timebase tick: their order is open. Log 3. -/
opaque Config.tickPlace : Nat → Nat

end Sys2Proof
end

