-- ==== Sys2Proof/Machine/State.lean ====
section
/-! DEFINITION. The state of the 3212, as plain data, and its value after RESET. INVENTORY.md lists every field with the
rule that names it. -/

namespace Sys2Proof.Machine

/-- No event of the spec stops the part: an access that fails completes with LERR, a failing line turns SUSPECT, an
identity clash enters the station state FAULT. So there is no fault. -/
inductive Fault
deriving DecidableEq, Repr

/-- Why a command has no meaning. -/
inductive Refusal where
  /-- The command of this mnemonic is not modelled yet. Raised by exec's arm for it and nowhere else. Safe: nothing is
  claimed of it. -/
  | notModelled (mnemonic : String)
deriving DecidableEq, Repr

/-- A stamp: a version and its writer (R4). The writer is held at the width of the station number field, whose value a local
write gives it (R54; log 9); the writer of a received stamp is 0 to 31 or none (R199). -/
structure Stamp where
  version : BitVec 48
  writer : Option Byte
deriving DecidableEq, Repr

/-- The blank stamp 0/– (R4). -/
def Stamp.blank : Stamp := ⟨0, none⟩

/-- Whether the line's bytes can be trusted (R7). -/
inductive Content where
  | valid
  | stale
  | suspect
deriving DecidableEq, Repr

/-- A stamped local write waiting to be framed (R6, R8). -/
structure Post where
  base : Stamp
  mask : Mask
  mustFull : Bool
deriving DecidableEq, Repr

/-- The write of the line that is in flight (R6, R8). -/
structure Flight where
  slot : SlotNo
  superseded : Bool
deriving DecidableEq, Repr

/-- The pending state with the fields present in it (R6, R8). -/
inductive Pending where
  | idle
  | posted (post : Post)
  | inflight (flight : Flight)
  | inflightPosted (flight : Flight) (post : Post)
deriving DecidableEq, Repr

/-- The four pending states by name, as QUERY reports them (R22). -/
inductive PendingName where
  | idle
  | posted
  | inflight
  | inflightPosted
deriving DecidableEq, Repr

/-- One line record (R6). -/
structure LineRecord where
  stamp : Stamp
  content : Content
  pending : Pending
  applyPending : Bool
  watched : Bool
  listed : Bool
deriving DecidableEq, Repr

/-- A line record after RESET (R13). -/
def LineRecord.reset : LineRecord := ⟨Stamp.blank, .valid, .idle, false, false, false⟩

/-- Why an apply entry was queued (R34). -/
inductive ApplyCause where
  | raise
  | heal
deriving DecidableEq, Repr

/-- The two kinds of update (R34). -/
inductive UpdateKind where
  | full
  | delta
deriving DecidableEq, Repr

/-- One entry of the Apply Queue; `data` holds the bytes of the positions in the mask, in position order (R34). -/
structure ApplyEntry where
  line : Nat
  cause : ApplyCause
  kind : UpdateKind
  stamp : Stamp
  mask : Mask
  data : List Byte
deriving DecidableEq, Repr

/-- What a slot tracks (R60). -/
inductive Purpose where
  | update
  | repair
deriving DecidableEq, Repr

/-- The kind of a due transmission (R81). -/
inductive TxKind where
  | mend
  | resend
  | replacement
  | retry
deriving DecidableEq, Repr

/-- A transmission due, with its place in the order in which transmissions became due (R59, R81). -/
structure Due where
  kind : TxKind
  order : Nat
deriving DecidableEq, Repr

/-- The record of an in-use slot (R60). -/
structure SlotUse where
  purpose : Purpose
  line : Nat
  stamp : Stamp
  attempts : Nat
  due : Option Due
  deadline : Option Nat
deriving DecidableEq, Repr

/-- One slot of the Outstanding Table; the generation is kept while the slot is free (R60, R62). -/
structure Slot where
  generation : BitVec 4
  use : Option SlotUse
deriving DecidableEq, Repr

/-- One entry of the Repair List (R103). -/
structure RepairEntry where
  line : Nat
  listedAt : Nat
deriving DecidableEq, Repr

/-- A choice of the Framer whose claim on the Replica Store has not been granted (R57). Probes and REQUESTs need no
grant and are built in the choice itself (R72, R75). -/
inductive Build where
  | post (line : Nat)
  | mendResend (slot : SlotNo)
  | replacement (slot : SlotNo)
  | answer
  | sweep
deriving DecidableEq, Repr

/-- What ring-out sends while the station is active: IDLE, the head of the Bypass FIFO with the count of its bytes that
have left (R143), or the own frame in the Forwarding Unit's place (R144). -/
inductive Sending where
  | idle
  | forwarded (sent : Nat)
  | own
deriving DecidableEq, Repr

/-- The Forwarding Unit's mode: repeating ring-in symbol for symbol (R136), switched to pass-through and carrying IDLE
until the next START arrives (R138), or active (R130). -/
inductive LinkMode where
  | repeating
  | idleUntilStart
  | active
deriving DecidableEq, Repr

/-- The hold record (9.6). -/
inductive Hold where
  | free
  | held (line : Nat) (breakTime : Nat)
  | broken (line : Nat)
deriving DecidableEq, Repr

/-- A replica access: a read, or a write with its byte enables and data (R172). -/
inductive AccessKind where
  | read
  | write (be : BitVec 4) (ld : Word)
deriving DecidableEq, Repr

/-- What the access in progress waits for (R49, R174): the end of CLEARING, the end of apply pending, or the grant of
its claim. -/
inductive AccessPhase where
  | clearing
  | apply
  | claim
deriving DecidableEq, Repr

/-- The replica access in progress (R172). -/
structure Access where
  kind : AccessKind
  la : BitVec 15
  lhold : Bool
  phase : AccessPhase
deriving DecidableEq, Repr

/-- How an access completed: LRDY (`ok`) or LERR, and for a read the word driven on LD (R172, R173). -/
structure Completion where
  ok : Bool
  ld : Option Word
deriving DecidableEq, Repr

/-- The five station states (8.2). -/
inductive StationState where
  | offline
  | joining
  | online
  | isolated
  | fault
deriving DecidableEq, Repr

/-- The command result (R179). -/
inductive CommandResult where
  | accepted
  | wrongState
  | configInvalid
  | notReady
  | badLine
  | locked
deriving DecidableEq, Repr

/-- The configuration record, each field at the width its word stores (R149, R201). -/
structure ConfigRecord where
  stationNumber : BitVec 8
  ringSpan : BitVec 8
  instanceToken : BitVec 16
  returnLimit : BitVec 16
  probeInterval : BitVec 16
  sweepInterval : BitVec 16
  holdLimit : BitVec 8
  retryLimit : BitVec 8
  windowSize : BitVec 16
  deltaEnable : BitVec 8
deriving DecidableEq, Repr

/-- The outstanding probe (R159). -/
structure OutstandingProbe where
  number : BitVec 8
  deadline : Option Nat
deriving DecidableEq, Repr

/-- The probe record (R159). `timer` is the time of the next expiry while the probe interval timer runs. -/
structure ProbeRecord where
  next : BitVec 8
  due : Bool
  outstanding : Option OutstandingProbe
  timer : Option Nat
  losses : Nat
deriving DecidableEq, Repr

/-- The Sweep Unit (R119, R120, R126). `timer` is the time of the next tick while the sweep timer produces ticks. -/
structure SweepUnit where
  pointer : Nat
  due : Bool
  lag : Bool
  timer : Option Nat
deriving DecidableEq, Repr

/-- The query record (R22). Of the pending state it reports only which it is. -/
structure QueryRecord where
  line : Nat
  stamp : Stamp
  content : Content
  pending : PendingName
  applyPending : Bool
  watched : Bool
  listed : Bool
deriving DecidableEq, Repr

/-- Details of FOREIGN (R189). -/
inductive ForeignDetail where
  | applied
  | healed
  | missed
deriving DecidableEq, Repr

/-- Details of UNDELIVERED (R189). -/
inductive UndeliveredDetail where
  | missed
  | timeout
deriving DecidableEq, Repr

/-- Reasons of WRITE-REFUSED (R50, R189). -/
inductive RefuseReason where
  | stale
  | suspect
  | overtaken
  | versionLimit
  | holdBroken
deriving DecidableEq, Repr

/-- Details of RING-DOWN (R189). -/
inductive RingDownDetail where
  | carrier
  | probes
deriving DecidableEq, Repr

/-- Details of DRAINED (R189). -/
inductive DrainedDetail where
  | complete
  | incomplete
deriving DecidableEq, Repr

/-- A notice, with the fields its kind carries (R189). -/
inductive Notice where
  | foreign (line : Nat) (station : Option Byte) (detail : ForeignDetail)
  | confirmed (line : Nat)
  | superseded (line : Nat) (station : Option Byte)
  | undelivered (line : Nat) (detail : UndeliveredDetail)
  | localLost (line : Nat)
  | writeRefused (line : Nat) (reason : RefuseReason)
  | unrepaired (line : Nat)
  | holdBroken (line : Nat)
  | ringUp
  | ringDown (detail : RingDownDetail)
  | membership (count : Nat)
  | identityClash
  | drained (detail : DrainedDetail)
  | overflow
deriving DecidableEq, Repr

/-- RESET and the clearing pass: RESET asserted, the pass about to claim line `next`, or the pass ended (R13, R14). -/
inductive ResetPhase where
  | asserted
  | clearing (next : Nat)
  | ended
deriving DecidableEq, Repr

/-- The state of the 3212. -/
structure State where
  /-- The commands waiting to be taken, first in, first out. -/
  pending : List Instr
  /-- The Timebase: microseconds. -/
  now : Nat
  /-- The counter the free orders are read at; the model's own. -/
  freeCount : Nat
  /-- The count of resets, at which the undefined bytes are read; the model's own. -/
  resetCount : Nat
  /-- RESET and the clearing pass (R13, R14). -/
  phase : ResetPhase
  /-- The bytes of the Replica Store by byte address; an unlisted byte is zero (R14). -/
  mem : List Host.Cell
  /-- The check codes by line; an unlisted code is that of 32 zero bytes (R3, R14). -/
  codes : List (Nat × BitVec 16)
  /-- The line records by line; an unlisted record holds the values of R13. -/
  lines : List (Nat × LineRecord)
  /-- The query record (R22). -/
  query : QueryRecord
  /-- The Apply Queue, head first (R34). -/
  applyQueue : List ApplyEntry
  /-- Whether a frame is in reception (R131). -/
  receiving : Bool
  /-- The carrier indication: true when present (R132). -/
  carrier : Bool
  /-- The Post List, oldest first (R55). -/
  postList : List Nat
  /-- The Outstanding Table (R60). -/
  slots : Vector Slot 16
  /-- Counts the transmissions made due, so that the first due is known (R59); the model's own. -/
  dueCount : Nat
  /-- The Framer's standing choice (R57). -/
  build : Option Build
  /-- The Repair List, oldest first (R103). -/
  repairList : List RepairEntry
  /-- The Answer Queue, head first (R111). -/
  answerQueue : List Nat
  /-- The Sweep Unit (R129). -/
  sweep : SweepUnit
  /-- The Bypass FIFO, head first; the head stays in it while it is sent (R143). -/
  fifo : List (List Byte)
  /-- The Forwarding Unit's place for an own frame (R57). -/
  place : Option (List Byte)
  /-- What ring-out is sending while active (R144). -/
  sending : Sending
  /-- The Forwarding Unit's mode (R136 to R139). -/
  linkMode : LinkMode
  /-- A switch to active or to pass-through is asked for and not yet made (R137, R138). -/
  switchAsked : Bool
  /-- The station state (8.2). -/
  station : StationState
  /-- The configuration record (R149). -/
  config : ConfigRecord
  /-- The configuration lock (R150). -/
  locked : Bool
  /-- The probe record (R159). -/
  probe : ProbeRecord
  /-- The membership map: bit s is station s (R166). -/
  membership : BitVec 32
  /-- The drain mark: true when PENDING (R194). -/
  drainPending : Bool
  /-- The replica access in progress (R172). -/
  access : Option Access
  /-- How the last access completed; none while an access is in progress and after RESET (R172, R173). -/
  completion : Option Completion
  /-- The hold record (9.6). -/
  hold : Hold
  /-- The interrupt enable (R187). -/
  intEnable : Bool
  /-- The command word's value (R177, R178). -/
  commandWord : Word
  /-- The command result (R179). -/
  result : CommandResult
  /-- The Notice Queue, head first (R190). -/
  notices : List Notice
deriving DecidableEq, Repr

/-- The configuration record after RESET: every field 0 (R149). -/
def ConfigRecord.reset : ConfigRecord := ⟨0, 0, 0, 0, 0, 0, 0, 0, 0, 0⟩

/-- The probe record after RESET (R159). -/
def ProbeRecord.reset : ProbeRecord := ⟨0, false, none, none, 0⟩

/-- The Sweep Unit after RESET (R129). -/
def SweepUnit.reset : SweepUnit := ⟨0, false, false, none⟩

/-- The query record after RESET (R22). -/
def QueryRecord.reset : QueryRecord := ⟨0, Stamp.blank, .valid, .idle, false, false, false⟩

/-- The state right after RESET has been released: OFFLINE, CLEARING shown, the clearing pass at line 0 (R13, R14). -/
def State.reset : State where
  pending := []
  now := 0
  freeCount := 0
  resetCount := 0
  phase := .clearing 0
  mem := []
  codes := []
  lines := []
  query := QueryRecord.reset
  applyQueue := []
  receiving := false
  carrier := false
  postList := []
  slots := Vector.replicate 16 ⟨0, none⟩
  dueCount := 0
  build := none
  repairList := []
  answerQueue := []
  sweep := SweepUnit.reset
  fifo := []
  place := none
  sending := .idle
  linkMode := .repeating
  switchAsked := false
  station := .offline
  config := ConfigRecord.reset
  locked := false
  probe := ProbeRecord.reset
  membership := 0
  drainPending := false
  access := none
  completion := none
  hold := .free
  intEnable := false
  commandWord := 0
  result := .accepted
  notices := []

end Sys2Proof.Machine
end

