-- ==== Sys2Proof/Machine/Frame.lean ====
section
/-! DEFINITION. The CRC, and the bytes of frames: reading their fields, building them, and the forwarded copy
(11_frame_and_record_formats, R133, R134, R141, R142). A frame is the list of its bytes, check bytes included. -/

namespace Sys2Proof.Machine

/-- One bit of the CRC: the feedback is the register's top bit exclusive-ORed with the data bit (R200). -/
def Crc.bit (c : BitVec 16) (b : Bool) : BitVec 16 :=
  if c.msb != b then (c <<< 1) ^^^ 0x1021#16 else c <<< 1

/-- One byte of the CRC, most significant bit first (R200). -/
def Crc.byte (c : BitVec 16) (b : Byte) : BitVec 16 :=
  [7, 6, 5, 4, 3, 2, 1, 0].foldl (fun c i => Crc.bit c (b.getLsbD i)) c

/-- The CRC of bytes in order, from a register of all ones (R200). -/
def Crc.compute (bs : List Byte) : BitVec 16 := bs.foldl Crc.byte 0xFFFF#16

/-- The number of positions in a set of 32. -/
def popcount (m : BitVec 32) : Nat := (List.range 32).countP fun i => m.getLsbD i

/-- Whether position `p` of a line is in a mask: the most significant bit is position 0 (R199). -/
def Mask.has (m : Mask) (p : Nat) : Bool := m.getLsbD (31 - p)

/-- All 32 positions. -/
def Mask.all : Mask := BitVec.allOnes 32

/-- The bytes of `bs` at the positions of the mask, in ascending position order, `p` being the first one's position. -/
def Mask.select (m : Mask) : Nat → List Byte → List Byte
  | _, [] => []
  | p, b :: bs => if Mask.has m p then b :: Mask.select m (p + 1) bs else Mask.select m (p + 1) bs

/-- The bytes of `bs` with the data put at the positions of the mask, in ascending position order. -/
def Mask.merge (m : Mask) : Nat → List Byte → List Byte → List Byte
  | _, [], _ => []
  | p, b :: bs, ds =>
    if Mask.has m p then
      match ds with
      | [] => b :: Mask.merge m (p + 1) bs []
      | d :: ds => d :: Mask.merge m (p + 1) bs ds
    else b :: Mask.merge m (p + 1) bs ds

/-! ## Fields of a frame (R198, R199) -/

/-- Byte `i` of a frame. -/
def Frame.byte (f : List Byte) (i : Nat) : Byte := f.getD i 0

/-- Bytes `i` and `i + 1` as a 16-bit field. -/
def Frame.half (f : List Byte) (i : Nat) : BitVec 16 := Frame.byte f i ++ Frame.byte f (i + 1)

/-- Bytes `i` to `i + 3` as a 32-bit field. -/
def Frame.word (f : List Byte) (i : Nat) : BitVec 32 := Frame.half f i ++ Frame.half f (i + 2)

/-- The kinds of frame (R198). -/
inductive FrameKind where
  | full
  | delta
  | request
  | probe
  | unknown
deriving DecidableEq, Repr

/-- The kind field: byte 0, bits 7 to 4 (R198). -/
def Frame.kindBits (f : List Byte) : BitVec 4 := (Frame.byte f 0).extractLsb' 4 4

/-- The kind (R198). -/
def Frame.kind (f : List Byte) : FrameKind :=
  if Frame.kindBits f = 1 then .full else if Frame.kindBits f = 2 then .delta
  else if Frame.kindBits f = 3 then .request else if Frame.kindBits f = 4 then .probe else .unknown

/-- MISSED: byte 0, bit 3 (R198). -/
def Frame.missed (f : List Byte) : Bool := (Frame.byte f 0).getLsbD 3

/-- ANSWERED: byte 0, bit 2 (R198). -/
def Frame.answered (f : List Byte) : Bool := (Frame.byte f 0).getLsbD 2

/-- UNTRACKED: byte 0, bit 1 (R198). -/
def Frame.untracked (f : List Byte) : Bool := (Frame.byte f 0).getLsbD 1

/-- The hop budget: byte 1 (R198). -/
def Frame.budget (f : List Byte) : Byte := Frame.byte f 1

/-- The origin: byte 2, at its full width (R198). -/
def Frame.origin (f : List Byte) : Byte := Frame.byte f 2

/-- The tag: byte 3; the probe number of a PROBE (R198). -/
def Frame.tag (f : List Byte) : Byte := Frame.byte f 3

/-- The slot of the tag: byte 3, bits 7 to 4 (R198). -/
def Frame.slot (f : List Byte) : SlotNo := ((Frame.tag f).extractLsb' 4 4).toFin

/-- The generation of the tag: byte 3, bits 3 to 0 (R198). -/
def Frame.generation (f : List Byte) : BitVec 4 := (Frame.tag f).extractLsb' 0 4

/-- The line: bytes 4 and 5, 0 to 65,535 (R198). -/
def Frame.line (f : List Byte) : Nat := (Frame.half f 4).toNat

/-- A writer byte: 0 to 31 names that station, 32 to 255 is taken as none (R199). -/
def Frame.writerOf (b : Byte) : Option Byte := if b.toNat < 32 then some b else none

/-- The stamp whose seven bytes begin at byte `i` (R199). -/
def Frame.stampAt (f : List Byte) (i : Nat) : Stamp :=
  ⟨Frame.word f i ++ Frame.half f (i + 4), Frame.writerOf (Frame.byte f (i + 6))⟩

/-- The stamp of a FULL or DELTA, the requested stamp of a REQUEST: bytes 6 to 12 (R199). -/
def Frame.stamp (f : List Byte) : Stamp := Frame.stampAt f 6

/-- The base stamp of a DELTA: bytes 13 to 19 (R199). -/
def Frame.baseStamp (f : List Byte) : Stamp := Frame.stampAt f 13

/-- The byte mask of a DELTA: bytes 20 to 23 (R199). -/
def Frame.mask (f : List Byte) : Mask := Frame.word f 20

/-- The data of a FULL: bytes 13 to 44 (R199). -/
def Frame.fullData (f : List Byte) : List Byte := (f.drop 13).take 32

/-- The data of a DELTA: one byte for each position of the mask, from byte 24 on (R199). -/
def Frame.deltaData (f : List Byte) : List Byte := (f.drop 24).take (popcount (Frame.mask f))

/-- The instance token of a PROBE: bytes 6 and 7 (R199). -/
def Frame.token (f : List Byte) : BitVec 16 := Frame.half f 6

/-- The presence map of a PROBE: bytes 8 to 11, station 0 the last bit (R199). -/
def Frame.presence (f : List Byte) : BitVec 32 := Frame.word f 8

/-! ## The check and the test for malformed frames -/

/-- Whether the frame's check is good: at least 8 bytes (R131), and the CRC of all but the last two bytes equals those
two, most significant first (R133). -/
def Frame.checkGood (f : List Byte) : Bool :=
  8 ≤ f.length && Crc.compute (f.take (f.length - 2)) == Frame.half f (f.length - 2)

/-- Whether a frame of a known kind has a length that does not fit its kind (R134). -/
def Frame.malformed (f : List Byte) : Bool :=
  match Frame.kind f with
  | .full => f.length != 47
  | .delta => f.length < 26 || popcount (Frame.mask f) == 0 || f.length != 26 + popcount (Frame.mask f)
  | .request => f.length != 15
  | .probe => f.length != 14
  | .unknown => false

/-! ## Building frames (R64, R199) -/

/-- The bytes of a 16-bit field, most significant first. -/
def Frame.halfBytes (h : BitVec 16) : List Byte := [h.extractLsb' 8 8, h.extractLsb' 0 8]

/-- The bytes of a 32-bit field, most significant first. -/
def Frame.wordBytes (w : BitVec 32) : List Byte :=
  Frame.halfBytes (w.extractLsb' 16 16) ++ Frame.halfBytes (w.extractLsb' 0 16)

/-- The writer byte sent: the writer as the stamp holds it, 255 for none (R54, R199). -/
def Frame.writerByte : Option Byte → Byte
  | some w => w
  | none => 255

/-- The seven bytes of a stamp (R199). -/
def Frame.stampBytes (t : Stamp) : List Byte :=
  Frame.wordBytes (t.version.extractLsb' 16 32) ++ Frame.halfBytes (t.version.extractLsb' 0 16)
    ++ [Frame.writerByte t.writer]

/-- Closes a frame with its CRC, most significant byte first (R200). -/
def Frame.seal (body : List Byte) : List Byte := body ++ Frame.halfBytes (Crc.compute body)

/-- The tag of a transmission from a slot (R62, R198). -/
def Frame.slotTag (slot : SlotNo) (generation : BitVec 4) : Byte := BitVec.ofFin slot ++ generation

/-- The header of an own frame: kind, UNTRACKED, hop budget, origin, tag, line (R64, R198). -/
def Frame.header (kind : BitVec 4) (untracked : Bool) (budget origin tag : Byte) (line : Nat) : List Byte :=
  [kind ++ (if untracked then 2#4 else 0#4), budget, origin, tag] ++ Frame.halfBytes (BitVec.ofNat 16 line)

/-- A FULL (R199). -/
def Frame.full (untracked : Bool) (budget origin tag : Byte) (line : Nat) (t : Stamp) (data : List Byte) : List Byte :=
  Frame.seal (Frame.header 1 untracked budget origin tag line ++ Frame.stampBytes t ++ data)

/-- A DELTA (R65, R199). -/
def Frame.delta (budget origin tag : Byte) (line : Nat) (t base : Stamp) (m : Mask) (data : List Byte) : List Byte :=
  Frame.seal (Frame.header 2 false budget origin tag line ++ Frame.stampBytes t ++ Frame.stampBytes base
    ++ Frame.wordBytes m ++ data)

/-- A REQUEST (R72, R199). -/
def Frame.request (budget origin tag : Byte) (line : Nat) (t : Stamp) : List Byte :=
  Frame.seal (Frame.header 3 false budget origin tag line ++ Frame.stampBytes t)

/-- A PROBE (R75, R199). -/
def Frame.probe (budget origin number : Byte) (token : BitVec 16) (presence : BitVec 32) : List Byte :=
  Frame.seal (Frame.header 4 false budget origin number 0 ++ Frame.halfBytes token ++ Frame.wordBytes presence)

/-! ## The symbols of a frame (R130) -/

/-- A symbol of a ring link that an active station sends: one data byte, or one of the three control symbols; it sends no
invalid symbol (R130). -/
inductive Symbol where
  | data (byte : Byte)
  | idle
  | start
  | finish
deriving DecidableEq, Repr

/-- What ring-out carries for a frame: START, the frame's bytes in order, END (R130). -/
def Frame.symbols (f : List Byte) : List Symbol := .start :: (f.map .data ++ [.finish])

/-! ## The forwarded copy (R141, R142) -/

/-- What the action on a frame changes in its forwarded copy. -/
structure Marks where
  missed : Bool
  answered : Bool
  /-- The station whose position is set in a PROBE's presence map. -/
  presence : Option Byte
deriving DecidableEq, Repr

/-- Sets the bit of a station in a presence map. -/
def Frame.present (map : BitVec 32) (station : Byte) : BitVec 32 := map ||| (1#32 <<< station.toNat)

/-- Byte 0 of the forwarded copy: MISSED and ANSWERED set where the action sets them, never cleared (R141). -/
def Frame.markedByte (b : Byte) (m : Marks) : Byte :=
  b ||| (if m.missed then 8#8 else 0#8) ||| (if m.answered then 4#8 else 0#8)

/-- The forwarded copy: the marks set, the hop budget lowered by one, the CRC computed afresh (R141, R142). -/
def Frame.forwarded (f : List Byte) (m : Marks) : List Byte :=
  let body := ((f.take (f.length - 2)).set 0 (Frame.markedByte (Frame.byte f 0) m)).set 1 (Frame.budget f - 1)
  match m.presence with
  | none => Frame.seal body
  | some s => Frame.seal (body.take 8 ++ Frame.wordBytes (Frame.present (Frame.presence f) s) ++ body.drop 12)

end Sys2Proof.Machine
end

