-- ==== Sys2Proof/Machine/Operands.lean ====
section
/-! DEFINITION. Operand forms: lines and words of the replica window, byte enables, the window in force, line arguments
of commands (R1, R2, 9.1). -/

namespace Sys2Proof.Machine

/-- The window that a window size field puts in force; none is the value 0 (R1). -/
def windowOf (size : BitVec 16) : Nat :=
  if size = 512 ∨ size = 1024 ∨ size = 2048 ∨ size = 4096 then size.toNat else 0

/-- The number of lines in force (R1). -/
def State.window (s : State) : Nat := windowOf s.config.windowSize

/-- Whether a line is within the window in force (R1). -/
def State.inWindow (s : State) (line : Nat) : Bool := line < s.window

/-- The line of a replica window word address (9.1). -/
def lineOf (la : BitVec 15) : Nat := la.toNat / 8

/-- The word within the line (9.1). -/
def wordOf (la : BitVec 15) : Nat := la.toNat % 8

/-- The positions that byte enables name in word `w`: LBE bit 3 is position 4w (R2). -/
def enabledMask (w : Nat) (be : BitVec 4) : Mask := (be.setWidth 32) <<< (28 - 4 * w)

/-- The bytes of LD that the byte enables name, in position order (R2). -/
def enabledBytes (be : BitVec 4) (ld : Word) : List Byte :=
  (if be.getLsbD 3 then [ld.extractLsb' 24 8] else []) ++ (if be.getLsbD 2 then [ld.extractLsb' 16 8] else [])
    ++ (if be.getLsbD 1 then [ld.extractLsb' 8 8] else []) ++ (if be.getLsbD 0 then [ld.extractLsb' 0 8] else [])

/-- Word `w` of a line's bytes as LD carries it: position 4w on bits 31 to 24 (R2). -/
def wordAt (bytes : List Byte) (w : Nat) : Word := Frame.word bytes (4 * w)

end Sys2Proof.Machine
end

