-- ==== Sys2Proof/Machine/Stamps.lean ====
section
/-! DEFINITION. The order of stamps (R5) and the stamp a local write issues (R4, R54). -/

namespace Sys2Proof.Machine

/-- The rank of a writer at equal versions: none below station 0 (R5). -/
def writerRank : Option Byte → Nat
  | none => 0
  | some s => s.toNat + 1

/-- Whether `a` is newer than `b` (R5). -/
def Stamp.newer (a b : Stamp) : Bool :=
  b.version.toNat < a.version.toNat || (a.version == b.version && decide (writerRank b.writer < writerRank a.writer))

/-- Whether `a` is equal to or newer than `b` (R5). -/
def Stamp.atLeast (a b : Stamp) : Bool := a == b || a.newer b

/-- The highest version, 281,474,976,710,655 (R4, R21). -/
def maxVersion : BitVec 48 := BitVec.allOnes 48

/-- The stamp a local write issues on top of `c`: the next version, and as writer the value of the station number field,
whatever it is (R4, R51, R54, R149; log 9). -/
def Stamp.next (c : Stamp) (stationNumber : Byte) : Stamp := ⟨c.version + 1, some stationNumber⟩

end Sys2Proof.Machine
end

