-- ==== Sys2Proof/Machine/Flags.lean ====
section
/-! DEFINITION. Status, marks and flags as words: the status word, the notice words, the query words, the other words of
the control window, NIRQ, and what ring-out carries (R187, R189, R201, R202). -/

namespace Sys2Proof.Machine

/-- The code of a station state in the status word (R201). -/
def StationState.code : StationState → BitVec 4
  | .offline => 0
  | .joining => 1
  | .online => 2
  | .isolated => 3
  | .fault => 4

/-- Whether a station in this state is active (7.3): JOINING, ONLINE or ISOLATED. -/
def StationState.isActive : StationState → Bool
  | .joining | .online | .isolated => true
  | .offline | .fault => false

/-- The code of a command result (R201). -/
def CommandResult.code : CommandResult → BitVec 8
  | .accepted => 0
  | .wrongState => 1
  | .configInvalid => 2
  | .notReady => 3
  | .badLine => 4
  | .locked => 5

/-- Whether the clearing pass is shown: from the release of RESET to the pass's end (R14, R152). -/
def State.clearingShown (s : State) : Bool :=
  match s.phase with
  | .clearing _ => true
  | .asserted | .ended => false

/-- Whether RESET is asserted. -/
def State.resetAsserted (s : State) : Bool :=
  match s.phase with
  | .asserted => true
  | .clearing _ | .ended => false

/-- The member count (R166). -/
def State.memberCount (s : State) : Nat := popcount s.membership

/-- Whether a station is in the membership map; writer none is not (R105, R166). -/
def State.isMember (s : State) : Option Byte → Bool
  | some n => s.membership.getLsbD n.toNat
  | none => false

/-- One bit of a word. -/
def bitAt (b : Bool) (i : Nat) : Word := if b then 1#32 <<< i else 0

/-- The status word (R152, R201). -/
def State.statusWord (s : State) : Word :=
  (s.station.code.setWidth 32 <<< 28) ||| bitAt s.clearingShown 27 ||| bitAt s.sweep.lag 26 ||| bitAt s.intEnable 25
    ||| BitVec.ofNat 32 s.memberCount

/-- The kind code of a notice (R202). -/
def Notice.kindCode : Notice → BitVec 8
  | .foreign _ _ _ => 1
  | .confirmed _ => 2
  | .superseded _ _ => 3
  | .undelivered _ _ => 4
  | .localLost _ => 5
  | .writeRefused _ _ => 6
  | .unrepaired _ => 7
  | .holdBroken _ => 8
  | .ringUp => 9
  | .ringDown _ => 10
  | .membership _ => 11
  | .identityClash => 12
  | .drained _ => 13
  | .overflow => 14

/-- The detail code of a notice, 0 where its kind carries none (R202). -/
def Notice.detailCode : Notice → BitVec 8
  | .foreign _ _ .applied => 1
  | .foreign _ _ .healed => 2
  | .foreign _ _ .missed => 3
  | .undelivered _ .missed => 1
  | .undelivered _ .timeout => 2
  | .writeRefused _ .stale => 1
  | .writeRefused _ .suspect => 2
  | .writeRefused _ .overtaken => 3
  | .writeRefused _ .versionLimit => 4
  | .writeRefused _ .holdBroken => 5
  | .ringDown .carrier => 1
  | .ringDown .probes => 2
  | .drained .complete => 1
  | .drained .incomplete => 2
  | .membership n => BitVec.ofNat 8 n
  | .confirmed _ | .superseded _ _ | .localLost _ | .unrepaired _ | .holdBroken _ | .ringUp | .identityClash
  | .overflow => 0

/-- The line a notice names (R189). -/
def Notice.line : Notice → Option Nat
  | .foreign l _ _ | .confirmed l | .superseded l _ | .undelivered l _ | .localLost l | .writeRefused l _
  | .unrepaired l | .holdBroken l => some l
  | .ringUp | .ringDown _ | .membership _ | .identityClash | .drained _ | .overflow => none

/-- The station a notice names (R189). -/
def Notice.station : Notice → Option Byte
  | .foreign _ w _ | .superseded _ w => w
  | .confirmed _ | .undelivered _ _ | .localLost _ | .writeRefused _ _ | .unrepaired _ | .holdBroken _ | .ringUp
  | .ringDown _ | .membership _ | .identityClash | .drained _ | .overflow => none

/-- Notice word 1 of a notice (R202). -/
def Notice.word1 (n : Notice) : Word :=
  (n.kindCode.setWidth 32 <<< 24) ||| (n.detailCode.setWidth 32 <<< 16) ||| bitAt n.line.isSome 15
    ||| bitAt n.station.isSome 14

/-- Notice word 2 of a notice (R202). -/
def Notice.word2 (n : Notice) : Word :=
  (BitVec.ofNat 32 (n.line.getD 0) <<< 16) ||| (n.station.getD 0).setWidth 32

/-- Notice word 1 as it reads: kind 0 and every bit 0 while the queue is empty (R192, R202). -/
def State.noticeWord1 (s : State) : Word := (s.notices.head?.map Notice.word1).getD 0

/-- Notice word 2 as it reads: zero while the queue is empty (R192, R202). -/
def State.noticeWord2 (s : State) : Word := (s.notices.head?.map Notice.word2).getD 0

/-- The content code of the query record (R202). -/
def Content.code : Content → BitVec 2
  | .valid => 0
  | .stale => 1
  | .suspect => 2

/-- The pending code of the query record (R202). -/
def PendingName.code : PendingName → BitVec 2
  | .idle => 0
  | .posted => 1
  | .inflight => 2
  | .inflightPosted => 3

/-- Query words 0 to 2 (R202). -/
def QueryRecord.word (q : QueryRecord) : Nat → Word
  | 0 => (BitVec.ofNat 32 q.line <<< 16) ||| ((Frame.writerByte q.stamp.writer).setWidth 32 <<< 8)
      ||| (q.content.code.setWidth 32 <<< 6) ||| (q.pending.code.setWidth 32 <<< 4) ||| bitAt q.applyPending 2
      ||| bitAt q.watched 1 ||| bitAt q.listed 0
  | 1 => (q.stamp.version.extractLsb' 32 16).setWidth 32
  | _ => q.stamp.version.extractLsb' 0 32

/-- Configuration words 0 to 3 as they read (R150, R201). -/
def ConfigRecord.word (c : ConfigRecord) (w : BitVec 2) : Word :=
  if w = 0 then c.stationNumber ++ c.ringSpan ++ c.instanceToken
  else if w = 1 then c.returnLimit ++ c.probeInterval
  else if w = 2 then c.sweepInterval ++ c.holdLimit ++ c.retryLimit
  else c.windowSize ++ 0#8 ++ c.deltaEnable

/-- A configuration word written: every field the word holds takes the value written (R150, R201). -/
def ConfigRecord.withWord (c : ConfigRecord) (w : BitVec 2) (v : Word) : ConfigRecord :=
  if w = 0 then
    { c with stationNumber := v.extractLsb' 24 8, ringSpan := v.extractLsb' 16 8, instanceToken := v.extractLsb' 0 16 }
  else if w = 1 then { c with returnLimit := v.extractLsb' 16 16, probeInterval := v.extractLsb' 0 16 }
  else if w = 2 then
    { c with sweepInterval := v.extractLsb' 16 16, holdLimit := v.extractLsb' 8 8, retryLimit := v.extractLsb' 0 8 }
  else { c with windowSize := v.extractLsb' 16 16, deltaEnable := v.extractLsb' 0 8 }

/-- What a read of an offset of the control window returns, none where the offset is unassigned (R177, R201). The
effects of reading offsets 6 and 12 are those of STATUS_READ and NOTICE_READ; the other reads have none. -/
def State.controlWord (s : State) (offset : Nat) : Option Word :=
  if offset < 4 then some (s.config.word (BitVec.ofNat 2 offset))
  else if offset = 4 then some s.commandWord
  else if offset = 5 then some (s.result.code.setWidth 32)
  else if offset = 6 then some s.statusWord
  else if offset = 7 then some s.membership
  else if offset ≤ 10 then some (s.query.word (offset - 8))
  else if offset = 11 then some s.noticeWord1
  else if offset = 12 then some s.noticeWord2
  else none

/-- The value of the command word after a command of this code and argument. Bits 23 to 16 hold no field and read as
zero (R201 and the opening of chapter 11; log 13). -/
def commandValue (code : BitVec 8) (arg : BitVec 16) : Word := code ++ 0#8 ++ arg

/-- NIRQ: asserted while the interrupt enable is on and the Notice Queue holds a notice (R187). -/
def State.nirqAsserted (s : State) : Bool := s.intEnable && !s.notices.isEmpty

end Sys2Proof.Machine
end

