-- ==== Sys2Proof/Machine/Sparse.lean ====
section
/-! DEFINITION. Sparse tables: a list of keys and values in one canonical form, keys strictly rising and no entry equal
to what an unlisted key reads as. The replica's bytes, the check codes and the line records are kept so. -/

namespace Sys2Proof.Machine

variable {α : Type}

/-- What key `i` reads as. -/
def Sparse.get (d : α) : List (Nat × α) → Nat → α
  | [], _ => d
  | (k, v) :: m, i => if i = k then v else Sparse.get d m i

/-- Takes key `i` out. -/
def Sparse.erase : List (Nat × α) → Nat → List (Nat × α)
  | [], _ => []
  | (k, v) :: m, i => if i = k then Sparse.erase m i else (k, v) :: Sparse.erase m i

/-- Puts a value at key `i`, in its place by key. -/
def Sparse.put : List (Nat × α) → Nat → α → List (Nat × α)
  | [], i, v => [(i, v)]
  | (k, w) :: m, i, v =>
    if i < k then (i, v) :: (k, w) :: m else if i = k then (i, v) :: m else (k, w) :: Sparse.put m i v

/-- Writes key `i`; writing what an unlisted key reads as takes the entry out. -/
def Sparse.set [DecidableEq α] (d : α) (m : List (Nat × α)) (i : Nat) (v : α) : List (Nat × α) :=
  if v = d then Sparse.erase m i else Sparse.put m i v

/-- The canonical form. -/
abbrev Sparse.Wf (d : α) (m : List (Nat × α)) : Prop :=
  m.Pairwise (fun a b => a.1 < b.1) ∧ ∀ e ∈ m, e.2 ≠ d

/-- The byte at an address: zero, which the clearing pass writes, when it is not listed (R14). -/
def Memory.read (m : List Host.Cell) (a : Nat) : Byte := Sparse.get 0#8 m a

/-- Writes one byte. -/
def Memory.write (m : List Host.Cell) (a : Nat) (b : Byte) : List Host.Cell := Sparse.set 0#8 m a b

/-- Writes bytes at rising addresses from `a` on. -/
def Memory.writeBytes (m : List Host.Cell) (a : Nat) : List Byte → List Host.Cell
  | [] => m
  | b :: bs => Memory.writeBytes (Memory.write m a b) (a + 1) bs

/-- The canonical form of the replica's bytes. -/
abbrev Memory.wf (m : List Host.Cell) : Prop := Sparse.Wf 0#8 m

end Sys2Proof.Machine
end

