-- ==== Sys2Proof/Machine/Ops.lean ====
section
/-! DEFINITION. The operations that several commands share: the Replica Store and its arbiter, line records, the Repair
List, the slots, notices, the drain test, check failures, and the course of a replica access. Each is a function from
state to state; none touches the queue of commands. -/

namespace Sys2Proof.Machine

/-- A meaning that completes: every command of the 3212 ends in a next state. -/
abbrev Result := Host.Outcome State Fault Refusal

/-! ## The Replica Store -/

/-- Whether the clearing pass has still to write this line: its bytes are undefined (R13, R14; log 6). -/
def State.uncleared (s : State) (line : Nat) : Bool :=
  match s.phase with
  | .asserted => true
  | .clearing next => next ≤ line
  | .ended => false

/-- The byte of the replica at a byte address (R2). -/
def State.byteAt (s : State) (a : Nat) : Byte :=
  if s.uncleared (a / 32) then Config.undefinedByte s.resetCount a else Memory.read s.mem a

/-- The 32 bytes of a line, position 0 first (R2). -/
def State.lineBytes (s : State) (line : Nat) : List Byte := (List.range 32).map fun p => s.byteAt (32 * line + p)

/-- The check code of 32 zero bytes (R3, R14). -/
def zeroCode : BitVec 16 := Crc.compute (List.replicate 32 0)

/-- The check code kept with a line (R3). -/
def State.lineCode (s : State) (line : Nat) : BitVec 16 :=
  if s.uncleared line then Config.undefinedCode s.resetCount line else Sparse.get zeroCode s.codes line

/-- Writes the cells of a line: its bytes and its code. -/
def State.writeCells (s : State) (line : Nat) (bytes : List Byte) (code : BitVec 16) : State :=
  { s with mem := Memory.writeBytes s.mem (32 * line) bytes, codes := Sparse.set zeroCode s.codes line code }

/-- Writes a line's bytes and, with them, their check code (R3). -/
def State.writeLine (s : State) (line : Nat) (bytes : List Byte) : State :=
  s.writeCells line bytes (Crc.compute bytes)

/-- What storage faults have left in the line by the time a claim reads it (log 5). -/
def State.strike (s : State) (line : Nat) : Option Upset → State
  | none => s
  | some u => s.writeCells line u.bytes.toList u.code

/-- Whether the verification of a line's check code passes (R3). -/
def State.checkGood (s : State) (line : Nat) : Bool := s.lineCode line == Crc.compute (s.lineBytes line)

/-! ## Line records -/

/-- The record of a line (R6). -/
def State.lineRec (s : State) (line : Nat) : LineRecord := Sparse.get LineRecord.reset s.lines line

/-- Writes the record of a line. -/
def State.setRec (s : State) (line : Nat) (r : LineRecord) : State :=
  { s with lines := Sparse.set LineRecord.reset s.lines line r }

/-! ## Notices (R190, R191) -/

/-- Where a notice is placed: as given below 63, OVERFLOW in its stead as the 64th, nowhere in a full queue (R191). -/
def placeNotice (q : List Notice) (n : Notice) : List Notice :=
  if q.length < 63 then q ++ [n] else if q.length = 63 then q ++ [.overflow] else q

/-- Gives a notice (R190, R191). -/
def State.give (s : State) (n : Notice) : State := { s with notices := placeNotice s.notices n }

/-- Gives two notices of one step whose order no rule names: either first (R190; log 10). -/
def State.giveBoth (s : State) (a b : Notice) : State :=
  let t := { s with freeCount := s.freeCount + 1 }
  if Config.firstNoticeFirst s.freeCount then (t.give a).give b else (t.give b).give a

/-! ## Completion of an access (R172, R173) -/

/-- Completes the access in progress. -/
def State.complete (s : State) (ok : Bool) (ld : Option Word) : State :=
  { s with access := none, completion := some ⟨ok, ld⟩ }

/-- LERR on LD: zero for a read (R173). -/
def AccessKind.errorData : AccessKind → Option Word
  | .read => some 0
  | .write _ _ => none

/-- Completes an access with LERR (R173). -/
def State.fail (s : State) (kind : AccessKind) : State := s.complete false kind.errorData

/-- Refuses a local write: LERR and WRITE-REFUSED with the reason (R50). -/
def State.refuseWrite (s : State) (line : Nat) (reason : RefuseReason) : State :=
  (s.give (.writeRefused line reason)).complete false none

/-! ## The Repair List -/

/-- Lists a line at the tail with the current time, if it is not listed and the list has room (R46, R98, R103, R125). -/
def State.listLine (s : State) (line : Nat) : State :=
  let r := s.lineRec line
  if r.listed || 32 ≤ s.repairList.length then s
  else { s.setRec line { r with listed := true } with repairList := s.repairList ++ [⟨line, s.now⟩] }

/-- Takes a line off the Repair List with its listed mark (R103). -/
def State.unlistLine (s : State) (line : Nat) : State :=
  { s.setRec line { s.lineRec line with listed := false } with
    repairList := s.repairList.filter fun e => e.line != line }

/-- Empties the Repair List: every listed mark becomes no (R16, R118). -/
def State.unlistAll (s : State) : State :=
  { s with
    repairList := []
    lines := s.lines.filterMap fun e =>
      let r := { e.2 with listed := false }
      if r = LineRecord.reset then none else some (e.1, r) }

/-! ## The Outstanding Table -/

/-- The slot numbers in order. -/
def allSlots : List SlotNo := [0, 1, 2, 3, 4, 5, 6, 7, 8, 9, 10, 11, 12, 13, 14, 15]

/-- A slot (R60). -/
def State.slot (s : State) (i : SlotNo) : Slot := s.slots[i]

/-- Writes a slot. -/
def State.setSlot (s : State) (i : SlotNo) (x : Slot) : State := { s with slots := s.slots.set i x }

/-- Frees a slot: its record is discarded and its generation is kept (R60). -/
def State.freeSlot (s : State) (i : SlotNo) : State := s.setSlot i { s.slot i with use := none }

/-- Whether a slot is in use for a purpose. -/
def Slot.isFor (x : Slot) (p : Purpose) : Bool :=
  match x.use with
  | some u => u.purpose == p
  | none => false

/-- Whether a slot is in use for a purpose and names a line. -/
def Slot.names (x : Slot) (p : Purpose) (line : Nat) : Bool :=
  match x.use with
  | some u => u.purpose == p && u.line == line
  | none => false

/-- The number of UPDATE slots in use (R61). -/
def State.updateSlots (s : State) : Nat := allSlots.countP fun i => (s.slot i).isFor .update

/-- The lowest-numbered free slot (R61). -/
def State.lowestFree (s : State) : Option SlotNo := allSlots.find? fun i => (s.slot i).use.isNone

/-- Whether a line has a REPAIR slot (R104). -/
def State.hasRepairSlot (s : State) (line : Nat) : Bool := allSlots.any fun i => (s.slot i).names .repair line

/-- Frees the REPAIR slot that names a line, if one is in use (R41, R116). -/
def State.freeRepairSlot (s : State) (line : Nat) : State :=
  { s with slots := s.slots.map fun x => if x.names .repair line then { x with use := none } else x }

/-- Makes a transmission due from an in-use slot, with an attempt count, and discards the deadline (R81). -/
def State.makeDue (s : State) (i : SlotNo) (u : SlotUse) (kind : TxKind) (attempts : Nat) : State :=
  { s.setSlot i { s.slot i with use := some { u with attempts, due := some ⟨kind, s.dueCount⟩, deadline := none } } with
    dueCount := s.dueCount + 1 }

/-- Ends the flight that a slot carries for a line: the update slot and the superseded mark are discarded, INFLIGHT
becomes IDLE, INFLIGHT_POSTED becomes POSTED and keeps its post, must-full where asked for (R71, R82 to R86). A record
that does not name the slot is left unchanged (R71). -/
def State.endFlight (s : State) (i : SlotNo) (line : Nat) (mustFull : Bool) : State :=
  let r := s.lineRec line
  match r.pending with
  | .inflight f => if f.slot = i then s.setRec line { r with pending := .idle } else s
  | .inflightPosted f p =>
    if f.slot = i then s.setRec line { r with pending := .posted { p with mustFull := p.mustFull || mustFull } } else s
  | .idle | .posted _ => s

/-! ## The drain (R194, R195) -/

/-- The completion condition of a drain: the Post List is empty and no UPDATE slot is in use (R195). -/
def State.drained (s : State) : Bool := s.postList.isEmpty && s.updateSlots == 0

/-- The test of a pending drain, made on the state a step leaves (R195). -/
def State.drainTest (s : State) : State :=
  if s.drainPending && s.drained then { s.give (.drained .complete) with drainPending := false } else s

/-! ## Withdrawal of a post and check failures (R97 to R102) -/

/-- Takes a line off the Post List (R55). -/
def State.unpost (s : State) (line : Nat) : State := { s with postList := s.postList.filter (· != line) }

/-- Withdraws the post of a line whose check code failed: the current stamp returns to the base stamp, LOCAL-LOST is
given (R99, R100). A line with no post is left as it is (R101). -/
def State.loseWaitingPost (s : State) (line : Nat) : State :=
  let r := s.lineRec line
  match r.pending with
  | .posted p => ((s.setRec line { r with stamp := p.base, pending := .idle }).unpost line).give (.localLost line)
  | .inflightPosted f p =>
    ((s.setRec line { r with stamp := p.base, pending := .inflight f }).unpost line).give (.localLost line)
  | .idle | .inflight _ => s

/-- A check failure, in its order: the post is withdrawn, the content is SUSPECT, the line is listed (R97, R98). The
claim's own outcome follows. -/
def State.checkFailure (s : State) (line : Nat) : State :=
  let t := s.loseWaitingPost line
  (t.setRec line { t.lineRec line with content := .suspect }).listLine line

/-! ## The Replica Store's arbiter (R17) -/

/-- Whether a line is the held line (9.6). -/
def State.isHeld (s : State) (line : Nat) : Bool :=
  match s.hold with
  | .held l _ => l == line
  | .free | .broken _ => false

/-- Whether the hold is broken (R184). -/
def State.holdIsBroken (s : State) : Bool :=
  match s.hold with
  | .broken _ => true
  | .free | .held _ _ => false

/-- Whether the Apply Unit presents a claim: a head entry that the hold does not hold back (R36). -/
def State.applyPresents (s : State) : Bool :=
  match s.applyQueue with
  | e :: _ => !s.isHeld e.line
  | [] => false

/-- Whether the Local Port presents a claim (R17). -/
def State.localPresents (s : State) : Bool :=
  match s.access with
  | some a => a.phase == .claim
  | none => false

/-- Whether the clearing pass or RESET keeps every other claim away (R13, R17). -/
def State.storeClosed (s : State) : Bool := s.clearingShown || s.resetAsserted

/-- Whether the arbiter grants the Apply Unit's claim now (R17). -/
def State.grantsApply (s : State) : Bool := !s.storeClosed && s.applyPresents

/-- Whether the arbiter grants the Local Port's claim now: none of higher precedence waits (R17). -/
def State.grantsLocal (s : State) : Bool := !s.storeClosed && !s.applyPresents && s.localPresents

/-- Whether the arbiter grants the Framer's claim now: none of higher precedence waits (R17). -/
def State.grantsFramer (s : State) : Bool :=
  !s.storeClosed && !s.applyPresents && !s.localPresents && s.build.isSome

/-! ## The course of a replica access (R49, R174) -/

/-- Whether an access is refused for LHOLD: it carries LHOLD while the hold is BROKEN, unless the hold limit is 0 (R180,
R184; log 17). -/
def State.refusesLhold (s : State) (lhold : Bool) : Bool := lhold && s.holdIsBroken && s.config.holdLimit != 0

/-- Whether a line keeps an access waiting at step 4: it has apply pending and is not the held line (R49, R174). -/
def State.keepsWaiting (s : State) (line : Nat) : Bool := (s.lineRec line).applyPending && !s.isHeld line

/-- Steps 3 to 5: the refusals tested at once, the wait for apply pending, the claim (R49, R50, R174). -/
def State.admitAccess (s : State) (a : Access) : State :=
  let line := lineOf a.la
  if s.refusesLhold a.lhold then
    match a.kind with
    | .read => s.fail .read
    | .write _ _ => s.refuseWrite line .holdBroken
  else if a.kind != .read && s.isHeld line && (s.lineRec line).applyPending then s.refuseWrite line .overtaken
  else if s.keepsWaiting line then { s with access := some { a with phase := .apply }, completion := none }
  else { s with access := some { a with phase := .claim }, completion := none }

/-- Steps 1 and 2, and then the rest: the wait for CLEARING, a line outside the window, a write with no byte enabled
(R15, R49, R174). -/
def State.takeAccess (s : State) (a : Access) : State :=
  if s.clearingShown then { s with access := some { a with phase := .clearing }, completion := none }
  else if !s.inWindow (lineOf a.la) then s.fail a.kind
  else
    match a.kind with
    | .write be _ => if be = 0 then s.complete true none else s.admitAccess a
    | .read => s.admitAccess a

/-- The end of CLEARING: an access that waited for it is taken as any access is (R15). -/
def State.resumeCleared (s : State) : State :=
  match s.access with
  | some a => if a.phase = .clearing then s.takeAccess a else s
  | none => s

/-- The end of apply pending: an access that waited for it presents its claim (R49, R174, R176). -/
def State.resumeApplied (s : State) : State :=
  match s.access with
  | some a =>
    if a.phase = .apply ∧ s.keepsWaiting (lineOf a.la) = false then { s with access := some { a with phase := .claim } }
    else s
  | none => s

/-- Whether the Local Port takes an access now: none is in progress and RESET is not asserted (R172, R173; log 12). -/
def State.portFree (s : State) : Bool := s.access.isNone && !s.resetAsserted

/-! ## Time -/

/-- The Timebase stands at least at a time that has been reached (log 4). -/
def State.reach (s : State) (t : Nat) : State := { s with now := max s.now t }

/-! ## Ring-out -/

/-- What ring-out carries: ring-in repeated symbol for symbol, or symbols of the Forwarding Unit's own, which are the whole
of a frame or one IDLE in each symbol time. -/
inductive RingOut where
  | repeatsRingIn
  | sends (symbols : List Symbol)
deriving DecidableEq, Repr

/-- Ring-out while no frame is being sent (R130). -/
def RingOut.idle : RingOut := .sends [.idle]

/-- Ring-out while a frame is being sent: START, its bytes, END (R130). -/
def RingOut.frame (f : List Byte) : RingOut := .sends (Frame.symbols f)

/-- What ring-out carries (R130, R136, R138, R144). -/
def State.ringOut (s : State) : RingOut :=
  match s.linkMode, s.sending with
  | .repeating, _ => .repeatsRingIn
  | .idleUntilStart, _ => .idle
  | .active, .idle => .idle
  | .active, .forwarded _ => (s.fifo.head?.map RingOut.frame).getD .idle
  | .active, .own => (s.place.map RingOut.frame).getD .idle

end Sys2Proof.Machine
end

