-- ==== Sys2Proof/Machine/Apply.lean ====
section
/-! DEFINITION. The Apply Unit: the completion of the Apply Queue's head entry (R36 to R41, R47, R116). -/

namespace Sys2Proof.Machine

/-- The head entry leaves the queue, and its line's apply pending mark is cleared when it was the line's last (R35). -/
def State.popApply (s : State) (e : ApplyEntry) (rest : List ApplyEntry) : State :=
  let t := { s with applyQueue := rest }
  t.setRec e.line { t.lineRec e.line with applyPending := rest.any fun x => x.line == e.line }

/-- The end of a repair: a line that an apply turns VALID leaves the Repair List and its REPAIR slot is freed
(R41, R116). -/
def State.endRepair (s : State) (line : Nat) : State := (s.unlistLine line).freeRepairSlot line

/-- FOREIGN for a watched line that an entry leaves VALID: APPLIED for a RAISE, HEALED for a HEAL (R47). -/
def State.giveApplied (s : State) (e : ApplyEntry) : State :=
  let r := s.lineRec e.line
  if r.watched && r.content == .valid then
    s.give (.foreign e.line e.stamp.writer (match e.cause with | .raise => .applied | .heal => .healed))
  else s

/-- The completion of a FULL entry: the bytes and their code are written, the content becomes VALID when the entry's
stamp is still the line's current stamp (R37, R41). -/
def State.applyFullEntry (s : State) (e : ApplyEntry) (rest : List ApplyEntry) : State :=
  let t := s.writeLine e.line (Mask.merge Mask.all 0 (s.lineBytes e.line) e.data)
  let r := t.lineRec e.line
  let u :=
    if r.stamp = e.stamp then
      let v := t.setRec e.line { r with content := .valid }
      if r.content = .valid then v else v.endRepair e.line
    else t
  (u.popApply e rest).giveApplied e

/-- The completion of a DELTA entry: nothing is written or verified on a line that has become untrusted (R40); on a
VALID line the check code is verified, and a failure turns the line SUSPECT (R39) while a good code lets the bytes be
merged (R38). -/
def State.applyDeltaEntry (s : State) (e : ApplyEntry) (rest : List ApplyEntry) (upset : Option Upset) : State :=
  if (s.lineRec e.line).content != .valid then s.popApply e rest
  else
    let t := s.strike e.line upset
    if !t.checkGood e.line then ((t.checkFailure e.line).popApply e rest).drainTest
    else ((t.writeLine e.line (Mask.merge e.mask 0 (t.lineBytes e.line) e.data)).popApply e rest).giveApplied e

/-- APPLY_FULL: the grant of the Apply Unit's claim for a FULL at the head (R36, R37). A local access that waited for
the entry goes on (R176). -/
def execApplyFull (s : State) : Result :=
  .next <|
    match s.applyQueue with
    | e :: rest => if s.grantsApply && e.kind == .full then (s.applyFullEntry e rest).resumeApplied else s
    | [] => s

/-- APPLY_DELTA: the grant of the Apply Unit's claim for a DELTA at the head (R36, R38 to R40). -/
def execApplyDelta (upset : Option Upset) (s : State) : Result :=
  .next <|
    match s.applyQueue with
    | e :: rest =>
      if s.grantsApply && e.kind == .delta then (s.applyDeltaEntry e rest upset).resumeApplied else s
    | [] => s

end Sys2Proof.Machine
end

