-- ==== Sys2Proof/Machine/Transitions.lean ====
section
/-! DEFINITION. The changes of station state that several commands share: abandonment, entry to ISOLATED, departure by
LEAVE or to FAULT, the loss of a probe (R76, R94, R95, R118, R138, R154 to R157, R164, R171). -/

namespace Sys2Proof.Machine

/-- The move of a line whose UPDATE slot is abandoned (R95). -/
def State.abandonLine (s : State) (i : SlotNo) (line : Nat) : State :=
  let r := s.lineRec line
  match r.pending with
  | .inflight f =>
    if f.slot = i then
      if f.superseded || r.content != .valid then s.setRec line { r with pending := .idle }
      else
        { s.setRec line { r with pending := .posted ⟨r.stamp, Mask.all, true⟩ } with postList := s.postList ++ [line] }
    else s
  | .inflightPosted f p =>
    if f.slot = i then s.setRec line { r with pending := .posted { p with mustFull := true } } else s
  | .idle | .posted _ => s

/-- The abandonment of one slot: it is freed with all it holds, and an UPDATE slot's line is moved (R94 to R96). -/
def State.abandonSlot (s : State) (i : SlotNo) : State :=
  match (s.slot i).use with
  | none => s
  | some u =>
    match u.purpose with
    | .update => (s.freeSlot i).abandonLine i u.line
    | .repair => s.freeSlot i

/-- The abandonment of every slot in use, in the order of their numbers (R94, R95). -/
def State.abandonSlots (s : State) : State := allSlots.foldl State.abandonSlot s

/-- Withdraws the own frame that waits in the Forwarding Unit's place, its insertion not begun, where the test says its
kind may no longer be inserted (R76). -/
def State.withdraw (s : State) (test : List Byte → Bool) : State :=
  match s.place with
  | none => s
  | some f => if s.sending != .own && test f then { s with place := none } else s

/-- Entry to ISOLATED (R155): abandonment, a waiting FULL, DELTA or REQUEST withdrawn, a build that has no grant yet
cancelled (R57), RING-DOWN when the station was ONLINE (R157, R164), and the drain test (R195, R196). -/
def State.enterIsolated (s : State) (detail : RingDownDetail) : State :=
  let t := (s.abandonSlots.withdraw fun f => Frame.kind f != .probe)
  let t := { t with build := none, station := .isolated }
  (if s.station = .online then t.give (.ringDown detail) else t).drainTest

/-- What the Forwarding Unit does at LEAVE and at entry to FAULT: frames waiting in the Bypass FIFO and the frame in
reception are discarded, a waiting own frame is withdrawn, and the switch to pass-through is made at once when ring-out
carries IDLE and is asked for otherwise (R76, R138). A switch to active not yet made is cancelled (log 20). -/
def State.leaveRing (s : State) : State :=
  let t := s.withdraw fun _ => true
  let kept := match t.sending with
    | .forwarded _ => t.fifo.take 1
    | .idle | .own => []
  let u := { t with fifo := kept, receiving := false }
  match u.linkMode with
  | .active =>
    if u.sending = .idle then { u with linkMode := .idleUntilStart, switchAsked := false }
    else { u with switchAsked := true }
  | .repeating | .idleUntilStart => { u with switchAsked := false }

/-- A pending drain is ended by LEAVE or by entry to FAULT (R196). -/
def State.endDrain (s : State) : State :=
  if s.drainPending then { s.give (.drained .incomplete) with drainPending := false } else s

/-- The Station Controller's records at LEAVE and at entry to FAULT (R159, R171): probe due, the outstanding probe and
the timer end, the loss count is 0, the membership map is emptied. -/
def State.resetMembership (s : State) : State :=
  { s with probe := { s.probe with due := false, outstanding := none, timer := none, losses := 0 }, membership := 0 }

/-- The actions of LEAVE and of entry to FAULT but for the notices (R154, R156). -/
def State.depart (s : State) (target : StationState) : State :=
  let t := s.abandonSlots.leaveRing.unlistAll.resetMembership
  { t with answerQueue := [], build := none, station := target }

/-- Entry to FAULT: the actions of LEAVE, with IDENTITY-CLASH queued ahead of DRAINED INCOMPLETE (R156). -/
def State.enterFault (s : State) : State := ((s.depart .fault).give .identityClash).endDrain

/-- The loss of the outstanding probe: it is discarded, the count is raised, holding at 3, and the third loss in ONLINE
enters ISOLATED with RING-DOWN PROBES (R164). -/
def State.loseProbe (s : State) : State :=
  let losses := min 3 (s.probe.losses + 1)
  let t := { s with probe := { s.probe with outstanding := none, losses := losses } }
  if s.station = .online ∧ losses = 3 then t.enterIsolated .probes else t

end Sys2Proof.Machine
end

