-- ==== Sys2Proof/Machine/ControlWindow.lean ====
section
/-! DEFINITION. The control window: configuration writes, the commands of the command word, the status and notice reads,
and the accesses that complete with LERR (R22, R150 to R154, R172, R177 to R179, R187, R192 to R194). -/

namespace Sys2Proof.Machine

/-- A write access presented at the port: the command it gives joins the queue (R172, R178, R201; log 28). -/
def State.presentWrite (s : State) (la : BitVec 16) (be : BitVec 4) (ld : Word) (lhold : Bool) : State :=
  { s with pending := s.pending ++ [writeCommand la be ld lhold] }

/-- A read access presented at the port: the command it gives, if any, joins the queue (R172, R177; log 24, log 28). -/
def State.presentRead (s : State) (la : BitVec 16) (lhold : Bool) : State :=
  { s with pending := s.pending ++ (readCommand la lhold).toList }

/-- A write of the command word that is taken: the value is kept, the result is set, the write completes with LRDY
(R177 to R179). -/
def State.answer (s : State) (code : BitVec 8) (arg : BitVec 16) (result : CommandResult) : State :=
  ({ s with commandWord := commandValue code arg, result }).complete true none

/-- CONFIG_WRITE: the fields are set while the lock is clear, nothing changes while it is set (R150). -/
def execConfigWrite (word : BitVec 2) (value : Word) (s : State) : Result :=
  .next <|
    if !s.portFree then s
    else if s.locked then ({ s with result := .locked }).complete true none
    else ({ s with config := s.config.withWord word value, result := .accepted }).complete true none

/-- Whether every field lies in the range of R149, the probe interval at least the return limit (R151). -/
def ConfigRecord.inRange (c : ConfigRecord) : Bool :=
  c.stationNumber.toNat ≤ 31 && 1 ≤ c.instanceToken.toNat && 2 ≤ c.ringSpan.toNat && c.ringSpan.toNat ≤ 32
    && windowOf c.windowSize != 0 && 10 ≤ c.returnLimit.toNat && 1 ≤ c.retryLimit.toNat && c.retryLimit.toNat ≤ 7
    && c.returnLimit.toNat ≤ c.probeInterval.toNat && c.deltaEnable.toNat ≤ 1

/-- Whether a record is POSTED, listed or watched (R151). -/
def LineRecord.inUse (r : LineRecord) : Bool :=
  r.listed || r.watched ||
    match r.pending with
    | .posted _ => true
    | .idle | .inflight _ | .inflightPosted _ _ => false

/-- Whether START finds the record valid: the ranges, and no line at or beyond the window POSTED, listed or watched
(R151). -/
def State.configValid (s : State) : Bool :=
  s.config.inRange && s.lines.all fun e => e.1 < s.window || !e.2.inUse

/-- What the Forwarding Unit does at an accepted START: a switch to pass-through not yet made is cancelled (R153), and
else the switch to active is asked for (R137). -/
def State.joinRing (s : State) : State :=
  match s.linkMode with
  | .active => { s with switchAsked := false }
  | .repeating | .idleUntilStart => { s with switchAsked := true }

/-- The actions of an accepted START (R153): JOINING, the lock, a probe due and the probe interval timer (R160), the
sweep timer at the first START since RESET (R119), the switch to active. -/
def State.join (s : State) : State :=
  let t := s.joinRing
  { t with
    station := .joining
    locked := true
    probe := { s.probe with due := true, timer := some (s.now + s.config.probeInterval.toNat) }
    sweep :=
      if s.locked || s.config.sweepInterval == 0 then s.sweep
      else { s.sweep with timer := some (s.now + s.config.sweepInterval.toNat) } }

/-- START (R153). -/
def execStart (arg : BitVec 16) (s : State) : Result :=
  .next <|
    if !s.portFree then s
    else if s.station ≠ .offline then s.answer 1 arg .wrongState
    else if s.clearingShown then s.answer 1 arg .notReady
    else if !s.locked && !s.configValid then s.answer 1 arg .configInvalid
    else s.join.answer 1 arg .accepted

/-- LEAVE (R154). -/
def execLeave (arg : BitVec 16) (s : State) : Result :=
  .next <|
    if !s.portFree then s
    else if s.station.isActive then (s.depart .offline).endDrain.answer 2 arg .accepted
    else s.answer 2 arg .wrongState

/-- DRAIN (R194): a DRAIN while one is pending changes nothing. -/
def execDrain (arg : BitVec 16) (s : State) : Result :=
  .next <|
    if !s.portFree then s
    else if !s.station.isActive then s.answer 3 arg .wrongState
    else if s.drainPending then s.answer 3 arg .accepted
    else ({ s with drainPending := true }).drainTest.answer 3 arg .accepted

/-- Sets the watched mark of a line (R193). -/
def State.setWatched (s : State) (line : Nat) (watched : Bool) : State :=
  s.setRec line { s.lineRec line with watched }

/-- WATCH (R193). -/
def execWatch (line : BitVec 16) (s : State) : Result :=
  .next <|
    if !s.portFree then s
    else if s.inWindow line.toNat then (s.setWatched line.toNat true).answer 4 line .accepted
    else s.answer 4 line .badLine

/-- UNWATCH (R193). -/
def execUnwatch (line : BitVec 16) (s : State) : Result :=
  .next <|
    if !s.portFree then s
    else if s.inWindow line.toNat then (s.setWatched line.toNat false).answer 5 line .accepted
    else s.answer 5 line .badLine

/-- The pending state by name (R22). -/
def Pending.name : Pending → PendingName
  | .idle => .idle
  | .posted _ => .posted
  | .inflight _ => .inflight
  | .inflightPosted _ _ => .inflightPosted

/-- The query record of a line as its record stands (R22). -/
def LineRecord.query (r : LineRecord) (line : Nat) : QueryRecord :=
  ⟨line, r.stamp, r.content, r.pending.name, r.applyPending, r.watched, r.listed⟩

/-- QUERY (R22). -/
def execQuery (line : BitVec 16) (s : State) : Result :=
  .next <|
    if !s.portFree then s
    else if s.inWindow line.toNat then
      ({ s with query := (s.lineRec line.toNat).query line.toNat }).answer 6 line .accepted
    else s.answer 6 line .badLine

/-- INTENABLE: 0 is off, any other argument is on (R178, R187). -/
def execIntenable (arg : BitVec 16) (s : State) : Result :=
  .next <| if !s.portFree then s else ({ s with intEnable := arg != 0 }).answer 7 arg .accepted

/-- UNKNOWN_COMMAND: LERR; the value is kept, the result is unchanged (R178). A written value that names a command gives that
command (commandOfWord) and never this row, which then does nothing (log 1). -/
def execUnknownCommand (value : Word) (s : State) : Result :=
  .next <|
    if !s.portFree || knownCommand value then s
    else
      ({ s with commandWord := commandValue (value.extractLsb' 24 8) (value.extractLsb' 0 16) }).complete false none

/-- STATUS_READ: the status word, and a lag flag returned set is cleared (R120, R152). -/
def execStatusRead (s : State) : Result :=
  .next <|
    if !s.portFree then s
    else ({ s with sweep := { s.sweep with lag := false } }).complete true (some s.statusWord)

/-- NOTICE_READ: notice word 2, and the head leaves the queue (R192). -/
def execNoticeRead (s : State) : Result :=
  .next <|
    if !s.portFree then s else ({ s with notices := s.notices.tail }).complete true (some s.noticeWord2)

/-- READ_ONLY_WRITE: LERR and no effect (R177). -/
def execReadOnlyWrite (offset : BitVec 6) (be : BitVec 4) (value : Word) (s : State) : Result :=
  .next <|
    if s.portFree && (Instr.readOnlyWrite offset be value).wellFormed then s.complete false none else s

/-- UNASSIGNED_ACCESS: LERR at once and no effect; a read drives LD to zero (R172, R173, R201). -/
def execUnassignedAccess (la : BitVec 16) (write : Bool) (s : State) : Result :=
  .next <|
    if s.portFree && (Instr.unassignedAccess la write).wellFormed then
      s.complete false (if write then none else some 0)
    else s

end Sys2Proof.Machine
end

