-- ==== Sys2Proof/Machine/Forward.lean ====
section
/-! DEFINITION. The Forwarding Unit: the output arbiter, the completion of own insertions, and the switches between
pass-through and active (R80, R130, R136 to R138, R143 to R145, R161). -/

namespace Sys2Proof.Machine

/-- The END of a forwarded frame: the frame leaves the Bypass FIFO (R143). An own insertion ends by INSERTION_COMPLETE. -/
def State.endForwarded (s : State) : State :=
  match s.sending with
  | .forwarded _ => { s with fifo := s.fifo.tail, sending := .idle }
  | .idle | .own => s

/-- The output arbiter's choice between frames: the Bypass FIFO's head, else the own frame that waits, else IDLE (R144). -/
def State.chooseOutput (s : State) : State :=
  match s.fifo, s.place with
  | _ :: _, _ => { s with sending := .forwarded 0 }
  | [], some _ => { s with sending := .own }
  | [], none => { s with sending := .idle }

/-- OUTPUT_ARBITER_CHOICE (R144). A choice is made between frames: while a forwarded frame is being sent the choice
comes after its END, and while an own insertion is in progress there is none (log 21). A station that has been told to
leave the ring makes no choice: it switches at the END (R138). -/
def execOutputArbiterChoice (s : State) : Result :=
  .next <|
    if s.linkMode = .active ∧ s.switchAsked = false ∧ s.sending ≠ .own then s.endForwarded.chooseOutput else s

/-- The completion report of a transmission from a slot: the deadline is set when the slot is in use, the generation is
that of its latest transmission, nothing is due and no deadline is present (R80). -/
def State.reportSlot (s : State) (i : SlotNo) (generation : BitVec 4) : State :=
  let x := s.slot i
  match x.use with
  | none => s
  | some u =>
    if generation = x.generation - 1 ∧ u.due = none ∧ u.deadline = none then
      s.setSlot i { x with use := some { u with deadline := some (s.now + s.config.returnLimit.toNat) } }
    else s

/-- The completion report of a probe: the outstanding probe's deadline is set while it is absent; a report in OFFLINE or
FAULT sets nothing (R161). -/
def State.reportProbe (s : State) (number : BitVec 8) : State :=
  match s.probe.outstanding with
  | some p =>
    if s.station.isActive ∧ p.number = number ∧ p.deadline = none then
      { s with
        probe :=
          { s.probe with outstanding := some { p with deadline := some (s.now + s.config.returnLimit.toNat) } } }
    else s
  | none => s

/-- The report of an own insertion's completion, by the frame (R145). -/
def State.reportInsertion (s : State) (f : List Byte) : State :=
  match Frame.kind f with
  | .probe => s.reportProbe (Frame.tag f)
  | .full | .delta => if Frame.untracked f then s else s.reportSlot (Frame.slot f) (Frame.generation f)
  | .request => s.reportSlot (Frame.slot f) (Frame.generation f)
  | .unknown => s

/-- INSERTION_COMPLETE: the END of the own insertion has been sent: the report, and the place is emptied (R145). -/
def execInsertionComplete (s : State) : Result :=
  .next <|
    match s.sending, s.place with
    | .own, some f => ({ s with sending := .idle, place := none }).reportInsertion f
    | _, _ => s

/-- SWITCH_TO_ACTIVE: the switch that START asked for, at a frame boundary on ring-out. A START that breaks off the
frame repeated begins the first frame received (R137). -/
def execSwitchToActive (boundary : FrameBoundary) (s : State) : Result :=
  .next <|
    if s.linkMode ≠ .active ∧ s.switchAsked then
      { s with
        linkMode := .active
        switchAsked := false
        sending := .idle
        receiving := boundary == .brokenByStart
        carrier := s.carrier || boundary == .brokenByStart }
    else s

/-- SWITCH_TO_PASS_THROUGH: the switch that LEAVE or FAULT asked for, at the END of the frame being sent; an own
insertion in progress is completed first, by INSERTION_COMPLETE (R138, R145). Ring-out then carries IDLE until the next
START. -/
def execSwitchToPassThrough (s : State) : Result :=
  .next <|
    if s.linkMode = .active ∧ s.switchAsked ∧ s.sending ≠ .own then
      { s.endForwarded with linkMode := .idleUntilStart, switchAsked := false }
    else s

/-- PASS_THROUGH_REPEAT_BEGINS: the first START on ring-in after the switch ends the IDLE output; ring-out repeats
ring-in from it on (R136, R138). -/
def execPassThroughRepeatBegins (s : State) : Result :=
  .next <| if s.linkMode = .idleUntilStart then { s with linkMode := .repeating, carrier := true } else s

end Sys2Proof.Machine
end

