-- ==== Sys2Proof/Machine/Receive.lean ====
section
/-! DEFINITION. The Receive Unit and what a frame received whole brings about: the decision on updates, the decision on
REQUESTs, probes, the return of own frames, and the forwarded copy (R23 to R48, R77 to R93, R108 to R111, R131 to R143,
R162 to R168). Also carrier and broken receptions. -/

namespace Sys2Proof.Machine

/-! ## The decision on an update (R23 to R35, R42 to R47) -/

/-- An update frame as it is decided. -/
structure Update where
  kind : UpdateKind
  line : Nat
  stamp : Stamp
  base : Stamp
  mask : Mask
  data : List Byte
deriving DecidableEq, Repr

/-- The update a FULL or DELTA carries (R199). -/
def Frame.update (f : List Byte) (kind : UpdateKind) : Update :=
  match kind with
  | .full => ⟨.full, Frame.line f, Frame.stamp f, Stamp.blank, Mask.all, Frame.fullData f⟩
  | .delta => ⟨.delta, Frame.line f, Frame.stamp f, Frame.baseStamp f, Frame.mask f, Frame.deltaData f⟩

/-- Whether a line is covered: the Apply Queue holds a FULL entry for it whose stamp is the current stamp (R24). -/
def State.covered (s : State) (line : Nat) : Bool :=
  s.applyQueue.any fun e => e.line == line && e.kind == .full && e.stamp == (s.lineRec line).stamp

/-- Whether the Apply Queue holds its 8 entries (R32, R34). -/
def State.applyFullHouse (s : State) : Bool := 8 ≤ s.applyQueue.length

/-- Queues an apply entry at the tail and sets apply pending (R27, R29, R30, R34, R35). -/
def State.queueApply (s : State) (u : Update) (cause : ApplyCause) : State :=
  { s.setRec u.line { s.lineRec u.line with applyPending := true } with
    applyQueue := s.applyQueue ++ [⟨u.line, cause, u.kind, u.stamp, u.mask, u.data⟩] }

/-- What a raise does to the station's own work on the line (R42 to R44): the record's new pending state, and whether
SUPERSEDED is given. -/
def supersededPending : Pending → Pending × Bool
  | .idle => (.idle, false)
  | .posted _ => (.idle, true)
  | .inflight f => (.inflight { f with superseded := true }, !f.superseded)
  | .inflightPosted f _ => (.inflight { f with superseded := true }, true)

/-- Raises the current stamp to a frame's, with the content given, and acts on the station's own work; the notices of
the step are left to the caller (R29 to R31, R42 to R44). -/
def State.raiseRec (s : State) (u : Update) (content : Content) : State :=
  let r := s.lineRec u.line
  (s.setRec u.line { r with stamp := u.stamp, content, pending := (supersededPending r.pending).1 }).unpost u.line

/-- A raise whose apply is queued (R29, R30). -/
def State.raiseAndQueue (s : State) (u : Update) : State :=
  let r := s.lineRec u.line
  let t := (s.raiseRec u r.content).queueApply u .raise
  (if (supersededPending r.pending).2 then t.give (.superseded u.line u.stamp.writer) else t).drainTest

/-- A raise whose bytes are not taken: STALE, listed, FOREIGN MISSED when watched (R31, R32, R46, R47). -/
def State.raiseStale (s : State) (u : Update) : State :=
  let r := s.lineRec u.line
  let t := (s.raiseRec u .stale).listLine u.line
  let superseded := Notice.superseded u.line u.stamp.writer
  let foreign := Notice.foreign u.line u.stamp.writer .missed
  (match (supersededPending r.pending).2, r.watched with
    | true, true => t.giveBoth superseded foreign
    | true, false => t.give superseded
    | false, true => t.give foreign
    | false, false => t).drainTest

/-- The decision: the state after it, and whether the forwarded copy leaves with MISSED set by it (R24 to R33). A heal that
finds the Apply Queue full lists no line, by R32 and R46; R124 may be read to list an unlisted one: the model's choice
(log 39). -/
def State.decideUpdate (s : State) (u : Update) : State × Bool :=
  let r := s.lineRec u.line
  if u.stamp.newer r.stamp then
    match u.kind with
    | .full => if s.applyFullHouse then (s.raiseStale u, true) else (s.raiseAndQueue u, false)
    | .delta =>
      if r.content = .valid ∧ u.base = r.stamp then
        if s.applyFullHouse then (s.raiseStale u, true) else (s.raiseAndQueue u, false)
      else (s.raiseStale u, true)
  else if u.stamp = r.stamp then
    if r.content = .valid ∨ s.covered u.line then (s, false)
    else
      match u.kind with
      | .full => if s.applyFullHouse then (s, true) else (s.queueApply u .heal, false)
      | .delta => (s, true)
  else (s, false)

/-! ## The decision on a REQUEST (R108 to R111) -/

/-- Whether the line record lets a REQUEST be answered: VALID, no apply pending, IDLE or INFLIGHT (R73, R109). -/
def LineRecord.answerable (r : LineRecord) : Bool :=
  r.content == .valid && !r.applyPending &&
    match r.pending with
    | .idle | .inflight _ => true
    | .posted _ | .inflightPosted _ _ => false

/-- Whether a REQUEST for a line at a stamp is taken (R109, R111). -/
def State.takesRequest (s : State) (line : Nat) (stamp : Stamp) : Bool :=
  let r := s.lineRec line
  s.station == .online && r.answerable && r.stamp.atLeast stamp
    && (s.answerQueue.contains line || s.answerQueue.length < 4)

/-- The decision on a REQUEST: a line that is taken joins the Answer Queue once (R109 to R111). -/
def State.decideRequest (s : State) (line : Nat) (stamp : Stamp) : State × Bool :=
  if s.takesRequest line stamp then
    (if s.answerQueue.contains line then s else { s with answerQueue := s.answerQueue ++ [line] }, true)
  else (s, false)

/-! ## The action on a frame that is forwarded (R135) -/

/-- The action on a frame of a peer, and the marks it sets in the forwarded copy (R135, R141, R165). A frame that names
a line beyond the window is forwarded with no action (R1, R23, R108), and a REQUEST that arrives ANSWERED too (R108). -/
def State.act (s : State) (f : List Byte) : State × Marks :=
  let line := Frame.line f
  match Frame.kind f with
  | .full =>
    if s.inWindow line then
      let d := s.decideUpdate (Frame.update f .full)
      (d.1, ⟨d.2, false, none⟩)
    else (s, ⟨false, false, none⟩)
  | .delta =>
    if s.inWindow line then
      let d := s.decideUpdate (Frame.update f .delta)
      (d.1, ⟨d.2, false, none⟩)
    else (s, ⟨false, false, none⟩)
  | .request =>
    if s.inWindow line && !Frame.answered f then
      let d := s.decideRequest line (Frame.stamp f)
      (d.1, ⟨false, d.2, none⟩)
    else (s, ⟨false, false, none⟩)
  | .probe => (s, ⟨false, false, some s.config.stationNumber⟩)
  | .unknown => (s, ⟨false, false, none⟩)

/-- The bytes of the frame being forwarded that have left the Bypass FIFO: `sent` tells how many by now, at most all of
them and no fewer than before (R143; log 8). -/
def State.progress (s : State) (sent : Nat) : State :=
  match s.sending, s.fifo with
  | .forwarded n, f :: _ => { s with sending := .forwarded (max n (min sent f.length)) }
  | _, _ => s

/-- The bytes the Bypass FIFO holds (R143). -/
def State.fifoBytes (s : State) : Nat :=
  (s.fifo.map List.length).sum -
    match s.sending with
    | .forwarded n => n
    | .idle | .own => 0

/-- A forwarded copy enters the Bypass FIFO if it has room for all its bytes, and is dropped otherwise (R143). -/
def State.enterFifo (s : State) (copy : List Byte) (sent : Nat) : State :=
  let t := s.progress sent
  if t.fifoBytes + copy.length ≤ 128 then { t with fifo := t.fifo ++ [copy] } else t

/-! ## Own frames that come home (R77 to R93, R162 to R168) -/

/-- Whether a stripped frame is a matched return of a slot: in use, its purpose the one asked for, the generation that
of the latest transmission, the deadline present (R78). A REPAIR slot whose return was matched with ANSWERED set keeps its
deadline (R91), and the model goes by the deadline: a further frame of the same tag is matched again. R78 also says that the
awaiting ends when the return is matched; which of the two holds is the model's choice (log 35). -/
def Slot.awaits (x : Slot) (p : Purpose) (generation : BitVec 4) : Bool :=
  x.isFor p && generation == x.generation - 1 &&
    match x.use with
    | some u => u.deadline.isSome
    | none => false

/-- The matched return of an update (R82 to R85). -/
def State.updateReturn (s : State) (i : SlotNo) (u : SlotUse) (missed : Bool) : State :=
  let r := s.lineRec u.line
  let free (mustFull : Bool) : State := (s.freeSlot i).endFlight i u.line mustFull
  match r.pending with
  | .inflight f =>
    if f.superseded then (free false).drainTest
    else if !missed then
      (if r.watched then (free false).give (.confirmed u.line) else free false).drainTest
    else if r.content != .valid then (free false).drainTest
    else if u.attempts < s.config.retryLimit.toNat then s.makeDue i u .mend (u.attempts + 1)
    else ((free false).give (.undelivered u.line .missed)).drainTest
  | .inflightPosted f _ =>
    if f.superseded then (free false).drainTest
    else if !missed then
      (if r.watched then (free false).give (.confirmed u.line) else free false).drainTest
    else (free true).drainTest
  | .idle | .posted _ => (s.freeSlot i).drainTest

/-- A repair that has not been answered in time: a retry is due below the retry limit, and at it the station gives up
with UNREPAIRED (R90, R92, R117). -/
def State.repairUnanswered (s : State) (i : SlotNo) (u : SlotUse) : State :=
  if u.attempts < s.config.retryLimit.toNat then s.makeDue i u .retry (u.attempts + 1)
  else ((s.freeSlot i).unlistLine u.line).give (.unrepaired u.line)

/-- A tracked frame that has come home: a matched return, or a late one that has no effect (R78, R79, R82 to R85, R90,
R91). -/
def State.returnFrame (s : State) (f : List Byte) (p : Purpose) : State :=
  let i := Frame.slot f
  let x := s.slot i
  match x.use with
  | none => s
  | some u =>
    if x.awaits p (Frame.generation f) then
      match p with
      | .update => s.updateReturn i u (Frame.missed f)
      | .repair => if Frame.answered f then s else s.repairUnanswered i u
    else s

/-- A probe of this station returning in time (R163). -/
def State.probeReturns (s : State) (map : BitVec 32) : State :=
  let t := { s with membership := map, probe := { s.probe with losses := 0, outstanding := none } }
  let u := if s.station = .joining ∨ s.station = .isolated then ({ t with station := .online }).give .ringUp else t
  if map = s.membership then u else u.give (.membership (popcount map))

/-- Whether a stripped probe with the station's own token is a return in time: its number is the outstanding probe's,
whose deadline is present and has not passed (R162). On the tick of the deadline itself, the return taken before
PROBE_LOST is in time, and PROBE_LOST taken first discards the probe (R162, R164). -/
def State.awaitsProbe (s : State) (number : BitVec 8) : Bool :=
  match s.probe.outstanding with
  | some ⟨n, some deadline⟩ => n == number && s.now ≤ deadline
  | some ⟨_, none⟩ | none => false

/-- A stripped PROBE: an identity clash, a return in time, or a late probe (R162, R163, R168). -/
def State.stripProbe (s : State) (f : List Byte) : State :=
  if Frame.token f ≠ s.config.instanceToken then s.enterFault
  else if s.awaitsProbe (Frame.tag f) then s.probeReturns (Frame.presence f)
  else s

/-- A frame whose origin is this station: stripped and handed on by its kind (R77). -/
def State.strip (s : State) (f : List Byte) : State :=
  match Frame.kind f with
  | .probe => s.stripProbe f
  | .full | .delta => if Frame.untracked f then s else s.returnFrame f .update
  | .request => s.returnFrame f .repair
  | .unknown => s

/-! ## Reception (R131 to R135) -/

/-- Whether the Receive Unit takes frames from ring-in: the station is active and no switch to pass-through is asked
for (R131, R138). -/
def State.receives (s : State) : Bool := s.linkMode == .active && !s.switchAsked && s.station.isActive

/-- A frame received whole: checked, tested for its form, and routed (R133 to R135). -/
def State.routeFrame (s : State) (f : List Byte) (sent : Nat) : State :=
  if !Frame.checkGood f || Frame.malformed f then s
  else if Frame.origin f = s.config.stationNumber then s.strip f
  else if Frame.budget f = 0 then s
  else
    let a := s.act f
    a.1.enterFifo (Frame.forwarded f a.2) sent

/-- FRAME_RECEIVED_WHOLE: the END of the frame in reception (R131, R135). Outside a frame an END is ignored, and more
than 58 bytes cannot have been received whole (R131). -/
def execFrameReceivedWhole (bytes : List Byte) (sent : Nat) (s : State) : Result :=
  .next <|
    if s.receives && s.receiving then
      let t := { s with receiving := false }
      if bytes.length ≤ 58 then t.routeFrame bytes sent else t
    else s

/-- FRAME_IN_RECEPTION_BEGINS: a START on ring-in at a station that receives; as a symbol it also regains carrier
(R131, R132). That a symbol under RESET regains nothing is the model's choice (log 36). -/
def execFrameInReceptionBegins (s : State) : Result :=
  .next <|
    if s.resetAsserted then s
    else if s.receives then { s with receiving := true, carrier := true }
    else { s with carrier := true }

/-- RECEPTION_BROKEN_OFF: the frame in reception is dropped; a START begins a new one (R131). -/
def execReceptionBrokenOff (cause : BreakCause) (s : State) : Result :=
  .next <| if s.receives && s.receiving then { s with receiving := cause == .start } else s

/-- CARRIER_LOST: the indication is lost, a frame in reception is dropped, and JOINING or ONLINE enters ISOLATED
(R131, R132, R155, R157). A return that R170 lets end ISOLATED after the loss is a frame whose START comes after the loss: a
probe in reception at the loss is dropped by R131 and returns nothing. This reading of the two rules is the model's choice
(log 37). -/
def execCarrierLost (s : State) : Result :=
  .next <|
    if s.carrier then
      let t := { s with carrier := false, receiving := false }
      match s.station with
      | .joining | .online => t.enterIsolated .carrier
      | .offline | .isolated | .fault => t
    else s

/-- CARRIER_REGAINED: the first symbol after a loss; it moves no state (R132, R157). A symbol that arrives while RESET is
asserted is not counted as the first symbol after RESET: the indication stays lost until RESET has been released. Neither R132
nor R136 says which holds, and this is the model's choice (log 36). -/
def execCarrierRegained (s : State) : Result := .next <| if s.resetAsserted then s else { s with carrier := true }

end Sys2Proof.Machine
end

