-- ==== Sys2Proof/Machine/Framer.lean ====
section
/-! DEFINITION. The Framer: its choice among six sources, and the builds of posts, mends, resends, replacements,
answers, refreshes, REQUESTs and probes; with the Sweep Unit's steps (R56 to R75, R105, R121 to R126, R161). -/

namespace Sys2Proof.Machine

/-! ## What the sources have ready (R56, R58, R59) -/

/-- A probe is due, in a state that serves probes (R58, R59). -/
def State.probeReady (s : State) : Bool := s.probe.due && s.station.isActive

/-- When a slot's transmission became due (R59). -/
def State.dueOrder (s : State) (i : SlotNo) : Option Nat := ((s.slot i).use.bind SlotUse.due).map Due.order

/-- The slot whose transmission became due first (R59). -/
def State.firstDue (s : State) : Option SlotNo :=
  allSlots.foldl
    (fun best i =>
      match best, s.dueOrder i with
      | none, some _ => some i
      | some b, some o => if (s.dueOrder b).any (o < ·) then some i else some b
      | best, none => best)
    none

/-- Whether a listed line is eligible for a REQUEST (R105, R167). -/
def State.eligible (s : State) (e : RepairEntry) : Bool :=
  let r := s.lineRec e.line
  !r.applyPending &&
    match r.content with
    | .suspect => true
    | .stale => e.listedAt + s.config.returnLimit.toNat ≤ s.now || !s.isMember r.stamp.writer
    | .valid => false

/-- The line the repair request source serves: the earliest listed among the eligible ones with no REPAIR slot (R59,
R106). -/
def State.repairLine (s : State) : Option Nat :=
  (s.repairList.find? fun e => s.eligible e && !s.hasRepairSlot e.line).map RepairEntry.line

/-- Whether a line's pending state is POSTED. -/
def Pending.isPosted : Pending → Bool
  | .posted _ => true
  | .idle | .inflight _ | .inflightPosted _ _ => false

/-- The post the Framer builds: the oldest entry of the Post List whose line is POSTED (R56). -/
def State.oldestPost (s : State) : Option Nat := s.postList.find? fun l => (s.lineRec l).pending.isPosted

/-- The slot an UPDATE allocation takes: the lowest free one, while fewer than 14 UPDATE slots are in use (R61). -/
def State.updateSlotFor (s : State) : Option SlotNo := if s.updateSlots < 14 then s.lowestFree else none

/-! ## Header values and slots of transmissions (R62 to R64) -/

/-- A FULL with this station's header values (R64). -/
def State.buildFull (s : State) (untracked : Bool) (tag : Byte) (line : Nat) (t : Stamp) (data : List Byte) :
    List Byte :=
  Frame.full untracked s.config.ringSpan s.config.stationNumber tag line t data

/-- A transmission from a slot is built: its record is written with nothing due and no deadline, and the generation
advances by one (R62, R63). -/
def State.transmit (s : State) (i : SlotNo) (u : SlotUse) : State :=
  s.setSlot i ⟨(s.slot i).generation + 1, some { u with due := none, deadline := none }⟩

/-- The tag of the next transmission from a slot (R62). -/
def State.nextTag (s : State) (i : SlotNo) : Byte := Frame.slotTag i (s.slot i).generation

/-- A built frame is handed over to the Forwarding Unit's place, and the Framer's choice is done (R57). -/
def State.handOver (s : State) (f : List Byte) : State := { s with place := some f, build := none }

/-- A build is abandoned: nothing is handed over, and the Framer may choose again (R57). -/
def State.abandonBuild (s : State) : State := { s with build := none }

/-! ## Probes and REQUESTs, built in the choice (R72, R75, R161) -/

/-- The build of a probe: an outstanding probe that still has a deadline is lost first; the probe takes the next number
and becomes the outstanding one (R75, R161). -/
def State.buildProbe (s : State) : State :=
  let t :=
    match s.probe.outstanding with
    | some ⟨_, some _⟩ => s.loseProbe
    | some ⟨_, none⟩ | none => s
  let number := t.probe.next
  let f := Frame.probe t.config.ringSpan t.config.stationNumber number t.config.instanceToken
    (Frame.present 0 t.config.stationNumber)
  ({ t with probe := { t.probe with due := false, next := number + 1, outstanding := some ⟨number, none⟩ } }).handOver f

/-- A REQUEST for a line on a slot at the line's current stamp (R64, R72). -/
def State.buildRequest (s : State) (i : SlotNo) (u : SlotUse) : State :=
  (s.transmit i u).handOver
    (Frame.request s.config.ringSpan s.config.stationNumber (s.nextTag i) u.line u.stamp)

/-- The first REQUEST for a listed line, on a newly allocated REPAIR slot (R61, R72). -/
def State.buildFirstRequest (s : State) (i : SlotNo) (line : Nat) : State :=
  s.buildRequest i ⟨.repair, line, (s.lineRec line).stamp, 0, none, none⟩

/-- A retry from a REPAIR slot: it asks for the line's current stamp, and a newer one starts the attempt count again
(R72). -/
def State.buildRetry (s : State) (i : SlotNo) (u : SlotUse) : State :=
  let c := (s.lineRec u.line).stamp
  s.buildRequest i { u with stamp := c, attempts := if c.newer u.stamp then 0 else u.attempts }

/-- The choice of the due slot: a retry is built at once, an update waits for its fetch (R59, R68, R69, R72). -/
def State.serveDue (s : State) (i : SlotNo) : State :=
  match (s.slot i).use with
  | none => s
  | some u =>
    match u.due.map Due.kind with
    | some .retry => s.buildRetry i u
    | some .replacement => { s with build := some (.replacement i) }
    | some .mend | some .resend => { s with build := some (.mendResend i) }
    | none => s

/-! ## The Sweep Unit's step (R121 to R126) -/

/-- The cases of a sweep step (R122). -/
inductive SweepCase where
  | refresh
  | listing
  | noAction
deriving DecidableEq, Repr

/-- The case of a line at the pointer (R122). An untrusted, unlisted line with room on the list is listed also while it is
INFLIGHT or has apply pending, as R122's table has it; R122's second bullet and R126 may be read to leave it: the model's
choice (log 38). -/
def State.sweepCase (s : State) (line : Nat) : SweepCase :=
  let r := s.lineRec line
  match r.content with
  | .valid =>
    if r.stamp.writer == some s.config.stationNumber && r.pending == .idle && !r.applyPending then
      .refresh
    else .noAction
  | .stale | .suspect => if !r.listed && s.repairList.length < 32 then .listing else .noAction

/-- The end of a step: the pointer advances, from the window's last line to 0, and the latch is cleared (R121, R126). -/
def State.endSweepStep (s : State) : State :=
  { s with
    sweep :=
      { s.sweep with
        pointer := if s.sweep.pointer + 1 < s.window then s.sweep.pointer + 1 else 0
        due := false } }

/-- The choice of the sweep: the first claim finds the case; a listing or no action ends the step, a refresh waits for
its fetch (R121). -/
def State.serveSweep (s : State) : State :=
  match s.sweepCase s.sweep.pointer with
  | .refresh => { s with build := some .sweep }
  | .listing => (s.listLine s.sweep.pointer).endSweepStep
  | .noAction => s.endSweepStep

/-! ## The choice (R57, R58) -/

/-- The ready source of highest precedence is chosen and its build begins (R57 to R59). -/
def State.choose (s : State) : State :=
  if s.probeReady then s.buildProbe
  else if s.station ≠ .online then s
  else
    match s.firstDue with
    | some i => s.serveDue i
    | none =>
      if !s.answerQueue.isEmpty then { s with build := some .answer }
      else
        match s.repairLine, s.lowestFree with
        | some line, some i => s.buildFirstRequest i line
        | _, _ =>
          match s.oldestPost, s.updateSlotFor with
          | some line, some _ => { s with build := some (.post line) }
          | _, _ => if s.sweep.due then s.serveSweep else s

/-- FRAMER_CHOICE: with the place empty and no build under way (R57). -/
def execFramerChoice (s : State) : Result :=
  .next <| if s.place.isNone && s.build.isNone then s.choose else s

/-! ## The builds that fetch a line (R65 to R74) -/

/-- Whether a post is carried as a DELTA (R65). -/
def State.carriesDelta (s : State) (p : Post) : Bool :=
  s.config.deltaEnable == 1 && popcount p.mask ≤ 20 && !p.mustFull

/-- The frame that carries a post (R65). -/
def State.postFrame (s : State) (i : SlotNo) (line : Nat) (r : LineRecord) (p : Post) : List Byte :=
  let bytes := s.lineBytes line
  if s.carriesDelta p then
    Frame.delta s.config.ringSpan s.config.stationNumber (s.nextTag i) line r.stamp p.base p.mask
      (Mask.select p.mask 0 bytes)
  else s.buildFull false (s.nextTag i) line r.stamp bytes

/-- The granted fetch for a post: a check failure or a line no longer POSTED abandons the build; else the frame is
built, a slot allocated, and the line moves to INFLIGHT (R66, R67; log 15). -/
def State.buildPost (s : State) (line : Nat) : State :=
  if !s.checkGood line then (s.checkFailure line).abandonBuild.drainTest
  else
    let r := s.lineRec line
    match r.pending, s.updateSlotFor with
    | .posted p, some i =>
      let f := s.postFrame i line r p
      let t := (s.transmit i ⟨.update, line, r.stamp, 0, none, none⟩).setRec line
        { r with pending := .inflight ⟨i, false⟩ }
      ((t.unpost line).handOver f).drainTest
    | _, _ => s.abandonBuild

/-- POST_BUILD (R66, R67). -/
def execPostBuild (upset : Option Upset) (s : State) : Result :=
  .next <|
    match s.build with
    | some (.post line) => if s.grantsFramer then (s.strike line upset).buildPost line else s
    | _ => s

/-- A due transmission found unfit: the slot is freed and its line moved (R70, R71). -/
def State.freeUnfit (s : State) (i : SlotNo) (line : Nat) : State :=
  let superseded :=
    match (s.lineRec line).pending with
    | .inflight f | .inflightPosted f _ => f.superseded
    | .idle | .posted _ => false
  (((s.freeSlot i).endFlight i line (!superseded)).abandonBuild).drainTest

/-- The granted fetch for a due mend or resend: a FULL at the slot's stamp if the line is fit (R68), and else the slot is
freed (R70, R71). -/
def State.buildMendResend (s : State) (i : SlotNo) (u : SlotUse) : State :=
  if !s.checkGood u.line then (s.checkFailure u.line).freeUnfit i u.line
  else
    let r := s.lineRec u.line
    if r.pending = .inflight ⟨i, false⟩ ∧ r.content = .valid then
      (s.transmit i u).handOver (s.buildFull false (s.nextTag i) u.line u.stamp (s.lineBytes u.line))
    else s.freeUnfit i u.line

/-- MEND_RESEND_BUILD (R68, R70, R71). -/
def execMendResendBuild (upset : Option Upset) (s : State) : Result :=
  .next <|
    match s.build with
    | some (.mendResend i) =>
      if s.grantsFramer then
        match (s.slot i).use with
        | some u => (s.strike u.line upset).buildMendResend i u
        | none => s.abandonBuild
      else s
    | _ => s

/-- The granted fetch for a due replacement: the waiting post as a FULL at the current stamp if the line is fit (R69),
and else the slot is freed (R70, R71). -/
def State.buildReplacement (s : State) (i : SlotNo) (u : SlotUse) : State :=
  if !s.checkGood u.line then (s.checkFailure u.line).freeUnfit i u.line
  else
    let r := s.lineRec u.line
    match r.pending with
    | .inflightPosted f _ =>
      if f = ⟨i, false⟩ ∧ r.content = .valid then
        let t := (s.transmit i { u with stamp := r.stamp }).setRec u.line { r with pending := .inflight f }
        ((t.unpost u.line).handOver
          (s.buildFull false (s.nextTag i) u.line r.stamp (s.lineBytes u.line))).drainTest
      else s.freeUnfit i u.line
    | .idle | .posted _ | .inflight _ => s.freeUnfit i u.line

/-- REPLACEMENT_BUILD (R69 to R71). -/
def execReplacementBuild (upset : Option Upset) (s : State) : Result :=
  .next <|
    match s.build with
    | some (.replacement i) =>
      if s.grantsFramer then
        match (s.slot i).use with
        | some u => (s.strike u.line upset).buildReplacement i u
        | none => s.abandonBuild
      else s
    | _ => s

/-- The granted fetch for the Answer Queue's head: the line leaves the queue; a FULL at the current stamp, UNTRACKED, if
the line is fit, and else the answer is dropped (R73, R114). -/
def State.buildAnswer (s : State) (line : Nat) (rest : List Nat) : State :=
  let t := { s with answerQueue := rest }
  if !t.checkGood line then (t.checkFailure line).abandonBuild.drainTest
  else if (t.lineRec line).answerable then
    t.handOver (t.buildFull true 0 line (t.lineRec line).stamp (t.lineBytes line))
  else t.abandonBuild

/-- ANSWER_BUILD (R73). -/
def execAnswerBuild (upset : Option Upset) (s : State) : Result :=
  .next <|
    match s.build with
    | some .answer =>
      if s.grantsFramer then
        match s.answerQueue with
        | line :: rest => (s.strike line upset).buildAnswer line rest
        | [] => s.abandonBuild
      else s
    | _ => s

/-- The granted fetch of a sweep step: the case is found again, and the step ends (R74, R121 to R123, R125). -/
def State.fetchSweep (s : State) (line : Nat) : State :=
  if !s.checkGood line then (s.checkFailure line).abandonBuild.endSweepStep.drainTest
  else
    match s.sweepCase line with
    | .refresh =>
      (s.handOver (s.buildFull true 0 line (s.lineRec line).stamp (s.lineBytes line))).endSweepStep
    | .listing => (s.listLine line).abandonBuild.endSweepStep
    | .noAction => s.abandonBuild.endSweepStep

/-- SWEEP_REFRESH_FETCH (R74, R123). -/
def execSweepRefreshFetch (upset : Option Upset) (s : State) : Result :=
  .next <|
    match s.build with
    | some .sweep =>
      if s.grantsFramer then (s.strike s.sweep.pointer upset).fetchSweep s.sweep.pointer else s
    | _ => s

end Sys2Proof.Machine
end

