-- ==== Sys2Proof/Machine/ReplicaPort.lean ====
section
/-! DEFINITION. The replica window: reads and writes taken, their claims granted, and the line hold (R18, R49 to R54,
R174 to R186). -/

namespace Sys2Proof.Machine

/-- The hold record becomes FREE (R182, R184). -/
def State.freeHold (s : State) : State := { s with hold := .free }

/-- LHOLD sampled deasserted with an access: a HELD hold ends and a BROKEN one becomes FREE before the access is taken
(R182, R184). A write with no byte enabled ends no hold (R176; log 16). -/
def State.sampleHold (s : State) (lhold noByte : Bool) : State :=
  if lhold then s
  else
    match s.hold with
    | .held _ _ => if noByte then s else s.freeHold
    | .broken _ => s.freeHold
    | .free => s

/-- REPLICA_READ: a read of the replica window is taken (R172, R174). -/
def execReplicaRead (la : BitVec 15) (lhold : Bool) (s : State) : Result :=
  .next <| if s.portFree then (s.sampleHold lhold false).takeAccess ⟨.read, la, lhold, .claim⟩ else s

/-- REPLICA_WRITE: a write of the replica window is taken (R49, R172, R176). -/
def execReplicaWrite (la : BitVec 15) (be : BitVec 4) (ld : Word) (lhold : Bool) (s : State) : Result :=
  .next <|
    if s.portFree then (s.sampleHold lhold (be == 0)).takeAccess ⟨.write be ld, la, lhold, .claim⟩ else s

/-- The hold binds in the step in which a claim is granted and acts (R180). -/
def State.bindHold (s : State) (a : Access) : State :=
  if a.lhold && s.hold == .free && s.config.holdLimit != 0 then
    { s with hold := .held (lineOf a.la) (s.now + s.config.holdLimit.toNat) }
  else s

/-- A granted read that acts: the check code is verified; the word is returned, or LERR for a line not VALID or a
failing check (R3, R18, R97, R174). -/
def State.readWord (s : State) (la : BitVec 15) : State :=
  let line := lineOf la
  if !s.checkGood line then ((s.checkFailure line).fail .read).drainTest
  else if (s.lineRec line).content != .valid then s.fail .read
  else s.complete true (some (wordAt (s.lineBytes line) (wordOf la)))

/-- READ_CLAIM_GRANTED (R18, R174, R175, R180). -/
def execReadClaimGranted (upset : Option Upset) (s : State) : Result :=
  .next <|
    match s.access with
    | some a =>
      if s.grantsLocal && a.kind == .read then
        let line := lineOf a.la
        if s.keepsWaiting line then { s with access := some { a with phase := .apply } }
        else ((s.strike line upset).bindHold a).readWord a.la
      else s
    | none => s

/-- The record of a line after a write that is taken, and whether the line joins the Post List (R51, R52, R53). A POSTED
line whose base stamp is its current stamp begins a new post and keeps the base stamp, the mask and must-full (R53). -/
def writtenRec (r : LineRecord) (mask : Mask) (stationNumber : Byte) : LineRecord × Bool :=
  let stamp := r.stamp.next stationNumber
  match r.pending with
  | .idle => ({ r with stamp, pending := .posted ⟨r.stamp, mask, false⟩ }, true)
  | .inflight f => ({ r with stamp, pending := .inflightPosted f ⟨r.stamp, mask, false⟩ }, true)
  | .posted p =>
    if p.base = r.stamp then ({ r with stamp }, false)
    else ({ r with pending := .posted { p with mask := p.mask ||| mask } }, false)
  | .inflightPosted f p => ({ r with pending := .inflightPosted f { p with mask := p.mask ||| mask } }, false)

/-- Whether a write would begin a post and so issue a version (R21, R53). -/
def LineRecord.beginsPost (r : LineRecord) : Bool :=
  match r.pending with
  | .idle | .inflight _ => true
  | .posted p => p.base == r.stamp
  | .inflightPosted _ _ => false

/-- A write that is taken: the enabled bytes are merged, the check code is written, the record moves (R49, R51 to R53). -/
def State.mergeWrite (s : State) (la : BitVec 15) (be : BitVec 4) (ld : Word) : State :=
  let line := lineOf la
  let mask := enabledMask (wordOf la) be
  let w := writtenRec (s.lineRec line) mask s.config.stationNumber
  let t := (s.writeLine line (Mask.merge mask 0 (s.lineBytes line) (enabledBytes be ld))).setRec line w.1
  ({ t with postList := if w.2 then s.postList ++ [line] else s.postList }).complete true none

/-- The refusals of R50 tested when the claim is granted, in the order of its table: OVERTAKEN, STALE, SUSPECT by content,
SUSPECT by the failing check, VERSION-LIMIT (R21). The first that applies is the one reported. -/
def State.writeRefusal (s : State) (line : Nat) (checkGood : Bool) : Option RefuseReason :=
  let r := s.lineRec line
  if s.isHeld line && r.applyPending then some .overtaken
  else if r.content == .stale then some .stale
  else if r.content == .suspect then some .suspect
  else if !checkGood then some .suspect
  else if r.beginsPost && r.stamp.version == maxVersion then some .versionLimit
  else none

/-- A granted write that acts: it verifies the check code, also where the record refuses it (R3, R18), and it is refused with
the first reason of R50 that applies, or taken (R49). A failing check has its effects whatever the reason (R97; log 14). -/
def State.writeWord (s : State) (la : BitVec 15) (be : BitVec 4) (ld : Word) : State :=
  let line := lineOf la
  let good := s.checkGood line
  match s.writeRefusal line good with
  | some reason =>
    if good then s.refuseWrite line reason else ((s.checkFailure line).refuseWrite line reason).drainTest
  | none => s.mergeWrite la be ld

/-- WRITE_CLAIM_GRANTED (R18, R49 to R54, R180). -/
def execWriteClaimGranted (upset : Option Upset) (s : State) : Result :=
  .next <|
    match s.access with
    | some a =>
      match a.kind with
      | .write be ld =>
        if s.grantsLocal then
          let line := lineOf a.la
          if s.keepsWaiting line then { s with access := some { a with phase := .apply } }
          else ((s.strike line upset).bindHold a).writeWord a.la be ld
        else s
      | .read => s
    | none => s

/-- LHOLD_DEASSERTED: LHOLD is seen deasserted between accesses: HELD or BROKEN becomes FREE (R182, R184). While an
access is in progress LHOLD is not watched (R172; log 25). -/
def execLholdDeasserted (s : State) : Result := .next <| if s.access.isNone then s.freeHold else s

/-- The waiting access that a break returns to step 3: one that waits for apply pending and carries LHOLD is completed
with LERR, a write with WRITE-REFUSED HOLD-BROKEN (R183, R185). -/
def State.failWaiting (s : State) : State :=
  match s.access with
  | some a =>
    if a.phase = .apply ∧ a.lhold then
      match a.kind with
      | .read => s.fail .read
      | .write _ _ => s.refuseWrite (lineOf a.la) .holdBroken
    else s
  | none => s

/-- HOLD_BREAK: the break time is reached: the record becomes BROKEN, HOLD-BROKEN is queued, a waiting held access is
completed (R183). -/
def execHoldBreak (s : State) : Result :=
  .next <|
    match s.hold with
    | .held line t => (({ s.reach t with hold := .broken line }).give (.holdBroken line)).failWaiting
    | .free | .broken _ => s

end Sys2Proof.Machine
end

