-- ==== Sys2Proof/Machine/ResetClear.lean ====
section
/-! DEFINITION. RESET, its release, and the clearing pass (R13 to R15, R139, R152). -/

namespace Sys2Proof.Machine

/-- RESET asserted: every piece of state takes its reset value at once; the replica bytes are undefined. What is left
is the queue of commands, the time and the model's own counters (R13, R34, R96, R118, R129, R139, R148, R171, R188). -/
def State.assertReset (s : State) : State :=
  { State.reset with
    pending := s.pending
    now := s.now
    freeCount := s.freeCount
    resetCount := s.resetCount + 1
    phase := .asserted }

/-- RESET (R13). -/
def execReset (s : State) : Result := .next s.assertReset

/-- RESET released: OFFLINE with CLEARING shown, the pass at line 0 (R14). -/
def State.releaseReset (s : State) : State := if s.resetAsserted then { s with phase := .clearing 0 } else s

/-- RESET_RELEASE (R14). -/
def execResetRelease (s : State) : Result := .next s.releaseReset

/-- The clearing pass's claim: 32 zero bytes and their code into the next line. After line 4095 CLEARING ends, and a
waiting access goes on (R14, R15). -/
def State.clearLine (s : State) : State :=
  match s.phase with
  | .clearing line =>
    let t := s.writeLine line (List.replicate 32 0)
    if line < 4095 then { t with phase := .clearing (line + 1) } else ({ t with phase := .ended }).resumeCleared
  | .asserted | .ended => s

/-- CLEARING_PASS_CLAIM (R14). -/
def execClearingPassClaim (s : State) : Result := .next s.clearLine

end Sys2Proof.Machine
end

