-- ==== Sys2Proof/Machine/Timed.lean ====
section
/-! DEFINITION. The timed events: deadlines, the loss of a probe, the probe interval, the sweep tick; and the Timebase's
tick (R80, R86, R87, R92, R119, R120, R160, R164). A timed event is taken when the Timebase stands at its time (log 4). -/

namespace Sys2Proof.Machine

/-- An UPDATE slot's deadline is reached (R86, R87). -/
def State.updateDeadline (s : State) (i : SlotNo) (u : SlotUse) : State :=
  let r := s.lineRec u.line
  let free : State := (s.freeSlot i).endFlight i u.line false
  match r.pending with
  | .inflight f =>
    if f.superseded || r.content != .valid then free.drainTest
    else if u.attempts < s.config.retryLimit.toNat then s.makeDue i u .resend (u.attempts + 1)
    else (free.give (.undelivered u.line .timeout)).drainTest
  | .inflightPosted f _ => if f.superseded then free.drainTest else s.makeDue i u .replacement 0
  | .idle | .posted _ => (s.freeSlot i).drainTest

/-- The record and the deadline of a slot that is in use for a purpose and awaits its deadline. -/
def State.deadlineOf (s : State) (i : SlotNo) (p : Purpose) : Option (SlotUse × Nat) :=
  match (s.slot i).use with
  | some u => if u.purpose = p then u.deadline.map fun d => (u, d) else none
  | none => none

/-- UPDATE_DEADLINE (R86, R87). A slot with no deadline has none to reach (R80). -/
def execUpdateDeadline (slot : SlotNo) (s : State) : Result :=
  .next <|
    match s.deadlineOf slot .update with
    | some (u, d) => (s.reach d).updateDeadline slot u
    | none => s

/-- REPAIR_DEADLINE (R92). -/
def execRepairDeadline (slot : SlotNo) (s : State) : Result :=
  .next <|
    match s.deadlineOf slot .repair with
    | some (u, d) => (s.reach d).repairUnanswered slot u
    | none => s

/-- PROBE_LOST: the outstanding probe's deadline is reached (R164). -/
def execProbeLost (s : State) : Result :=
  .next <|
    match s.probe.outstanding with
    | some ⟨_, some d⟩ => (s.reach d).loseProbe
    | some ⟨_, none⟩ | none => s

/-- PROBE_INTERVAL_EXPIRY: a probe is due, absorbed when one is due already; the timer keeps its spacing (R160). -/
def execProbeIntervalExpiry (s : State) : Result :=
  .next <|
    match s.probe.timer with
    | some t =>
      { s.reach t with
        probe := { s.probe with due := true, timer := some (t + s.config.probeInterval.toNat) } }
    | none => s

/-- The Sweep Unit at a tick: in ONLINE the latch is set, or the tick is lost and the lag flag is set (R119, R120). -/
def SweepUnit.tick (w : SweepUnit) (online : Bool) : SweepUnit :=
  if !online then w else if w.due then { w with lag := true } else { w with due := true }

/-- SWEEP_TICK (R119, R120). -/
def execSweepTick (s : State) : Result :=
  .next <|
    match s.sweep.timer with
    | some t =>
      { s.reach t with
        sweep :=
          { s.sweep.tick (s.station == .online) with timer := some (t + s.config.sweepInterval.toNat) } }
    | none => s

/-! ## The tick of the Timebase (log 2, log 3) -/

/-- Whether a time has been reached. -/
def State.reached (s : State) (t : Option Nat) : Bool := t.any (· ≤ s.now)

/-- The timed event of a slot that has reached its deadline. -/
def State.slotEvent (s : State) (i : SlotNo) : List Instr :=
  match (s.slot i).use with
  | some u =>
    if s.reached u.deadline then
      match u.purpose with
      | .update => [.updateDeadline i]
      | .repair => [.repairDeadline i]
    else []
  | none => []

/-- The break of a hold that has reached its break time (R183). -/
def State.holdEvent (s : State) : List Instr :=
  match s.hold with
  | .held _ t => if t ≤ s.now then [.holdBreak] else []
  | .free | .broken _ => []

/-- The timed events that have been reached. -/
def State.timedEvents (s : State) : List Instr :=
  s.holdEvent ++ allSlots.flatMap s.slotEvent
    ++ (if s.reached (s.probe.outstanding.bind OutstandingProbe.deadline) then [.probeLost] else [])
    ++ (if s.reached s.probe.timer then [.probeIntervalExpiry] else [])
    ++ (if s.reached s.sweep.timer then [.sweepTick] else [])

/-- Puts an event at a place of a list. -/
def insertEvent (e : Instr) : List Instr → Nat → List Instr
  | [], _ => [e]
  | x :: xs, 0 => e :: x :: xs
  | x :: xs, n + 1 => x :: insertEvent e xs n

/-- Events reached on one tick, in an order that is left open (log 3): each is put at a free place among the others. -/
def inOpenOrder : List Instr → Nat → List Instr
  | [], _ => []
  | e :: es, n => insertEvent e (inOpenOrder es (n + 1)) (Config.tickPlace n)

/-- One tick of the Timebase, with no command waiting: the time advances by 1 µs, and the timed events it reaches wait
to be taken. -/
def State.tick (s : State) : State :=
  let t := { s with now := s.now + 1 }
  let events := t.timedEvents
  { t with pending := inOpenOrder events s.freeCount, freeCount := s.freeCount + events.length }

end Sys2Proof.Machine
end

