-- ==== Sys2Proof/Machine/Dispatch.lean ====
section
/-! DEFINITION. The meaning of every command: one arm for each row of spec/opcode_table.json. -/

namespace Sys2Proof.Machine

/-- What a command does to everything but the queue of commands. -/
def exec (i : Instr) (s : State) : Host.Outcome State Fault Refusal :=
  match i with
  | .reset => Sys2Proof.Machine.execReset s
  | .resetRelease => Sys2Proof.Machine.execResetRelease s
  | .clearingPassClaim => Sys2Proof.Machine.execClearingPassClaim s
  | .replicaRead la lhold => Sys2Proof.Machine.execReplicaRead la lhold s
  | .readClaimGranted upset => Sys2Proof.Machine.execReadClaimGranted upset s
  | .replicaWrite la be ld lhold => Sys2Proof.Machine.execReplicaWrite la be ld lhold s
  | .writeClaimGranted upset => Sys2Proof.Machine.execWriteClaimGranted upset s
  | .configWrite word value => Sys2Proof.Machine.execConfigWrite word value s
  | .start arg => Sys2Proof.Machine.execStart arg s
  | .leave arg => Sys2Proof.Machine.execLeave arg s
  | .drain arg => Sys2Proof.Machine.execDrain arg s
  | .watch line => Sys2Proof.Machine.execWatch line s
  | .unwatch line => Sys2Proof.Machine.execUnwatch line s
  | .query line => Sys2Proof.Machine.execQuery line s
  | .intenable arg => Sys2Proof.Machine.execIntenable arg s
  | .unknownCommand value => Sys2Proof.Machine.execUnknownCommand value s
  | .statusRead => Sys2Proof.Machine.execStatusRead s
  | .noticeRead => Sys2Proof.Machine.execNoticeRead s
  | .readOnlyWrite offset be value => Sys2Proof.Machine.execReadOnlyWrite offset be value s
  | .unassignedAccess la write => Sys2Proof.Machine.execUnassignedAccess la write s
  | .lholdDeasserted => Sys2Proof.Machine.execLholdDeasserted s
  | .holdBreak => Sys2Proof.Machine.execHoldBreak s
  | .frameReceivedWhole bytes sent => Sys2Proof.Machine.execFrameReceivedWhole bytes sent s
  | .receptionBrokenOff cause => Sys2Proof.Machine.execReceptionBrokenOff cause s
  | .carrierLost => Sys2Proof.Machine.execCarrierLost s
  | .carrierRegained => Sys2Proof.Machine.execCarrierRegained s
  | .outputArbiterChoice => Sys2Proof.Machine.execOutputArbiterChoice s
  | .insertionComplete => Sys2Proof.Machine.execInsertionComplete s
  | .switchToActive boundary => Sys2Proof.Machine.execSwitchToActive boundary s
  | .switchToPassThrough => Sys2Proof.Machine.execSwitchToPassThrough s
  | .framerChoice => Sys2Proof.Machine.execFramerChoice s
  | .postBuild upset => Sys2Proof.Machine.execPostBuild upset s
  | .mendResendBuild upset => Sys2Proof.Machine.execMendResendBuild upset s
  | .replacementBuild upset => Sys2Proof.Machine.execReplacementBuild upset s
  | .answerBuild upset => Sys2Proof.Machine.execAnswerBuild upset s
  | .sweepRefreshFetch upset => Sys2Proof.Machine.execSweepRefreshFetch upset s
  | .applyFull => Sys2Proof.Machine.execApplyFull s
  | .applyDelta upset => Sys2Proof.Machine.execApplyDelta upset s
  | .updateDeadline slot => Sys2Proof.Machine.execUpdateDeadline slot s
  | .repairDeadline slot => Sys2Proof.Machine.execRepairDeadline slot s
  | .probeLost => Sys2Proof.Machine.execProbeLost s
  | .probeIntervalExpiry => Sys2Proof.Machine.execProbeIntervalExpiry s
  | .sweepTick => Sys2Proof.Machine.execSweepTick s
  | .frameInReceptionBegins => Sys2Proof.Machine.execFrameInReceptionBegins s
  | .passThroughRepeatBegins => Sys2Proof.Machine.execPassThroughRepeatBegins s

end Sys2Proof.Machine
end

