-- ==== Sys2Proof/Safety.lean ====
section
/-! DEFINITION. The invariants of the part: what holds of the state right after RESET and what every step keeps. -/

namespace Sys2Proof.Machine

/-! ## Canonical forms and capacities -/

/-- The replica's bytes, the check codes and the line records are kept in canonical form: keys rising, nothing listed
that an unlisted key reads as. -/
def State.Canonical (s : State) : Prop :=
  Memory.wf s.mem ∧ Sparse.Wf zeroCode s.codes ∧ Sparse.Wf LineRecord.reset s.lines

/-- No list, queue, count or table holds more than the spec gives it: the Apply Queue 8 (R34), the Repair List 32 (R103),
the Answer Queue 4 with no line twice (R111), the Notice Queue 64 with OVERFLOW last when full (R190, R191), the loss
count 3 (R159), the UPDATE slots 14 (R60). -/
def State.WithinCapacity (s : State) : Prop :=
  s.applyQueue.length ≤ 8 ∧ s.repairList.length ≤ 32 ∧ s.answerQueue.length ≤ 4 ∧ s.answerQueue.Nodup
    ∧ s.notices.length ≤ 64 ∧ (s.notices.length = 64 → s.notices.getLast? = some .overflow)
    ∧ s.probe.losses ≤ 3 ∧ s.updateSlots ≤ 14

/-- An in-use slot's attempt count is 0 to 7 (R60). It is raised only below the retry limit, which is at most 7 once the
record is locked (R149, R151), and before the lock is set the station is OFFLINE with no slot in use (R150, R153). -/
def State.AttemptsBounded (s : State) : Prop :=
  (∀ i u, (s.slot i).use = some u → u.attempts ≤ 7)
    ∧ (s.locked = true → s.config.retryLimit.toNat ≤ 7)
    ∧ (s.locked = false → s.station = .offline ∧ s.build = none ∧ ∀ i, (s.slot i).use = none)

/-! ## The marks of the line records and the lists they follow -/

/-- The flight fields of a pending state, present in INFLIGHT and INFLIGHT_POSTED (R6). -/
def Pending.flight : Pending → Option Flight
  | .inflight f | .inflightPosted f _ => some f
  | .idle | .posted _ => none

/-- The post fields of a pending state, present in POSTED and INFLIGHT_POSTED (R6). -/
def Pending.post : Pending → Option Post
  | .posted p | .inflightPosted _ p => some p
  | .idle | .inflight _ => none

/-- A line's apply pending mark is set exactly while the Apply Queue holds an entry for it (R35). -/
def State.ApplyMarksAgree (s : State) : Prop :=
  ∀ l, (s.lineRec l).applyPending = s.applyQueue.any fun e => e.line == l

/-- A line is on the Repair List exactly while its listed mark is yes, none twice, and every listed line is STALE or
SUSPECT (R103). -/
def State.RepairMarksAgree (s : State) : Prop :=
  (∀ l, (s.lineRec l).listed = s.repairList.any fun e => e.line == l)
    ∧ (s.repairList.map RepairEntry.line).Nodup
    ∧ ∀ l, (s.lineRec l).listed = true → (s.lineRec l).content ≠ .valid

/-- A line is on the Post List exactly while it is POSTED or INFLIGHT_POSTED, and none is on it twice (R55). -/
def State.PostListAgrees (s : State) : Prop :=
  (∀ l, l ∈ s.postList ↔ (s.lineRec l).pending.post.isSome = true) ∧ s.postList.Nodup

/-- The marks of the line records and the lists say the same (R35, R55, R103). -/
def State.ListsAgree (s : State) : Prop :=
  Sparse.Wf LineRecord.reset s.lines ∧ s.ApplyMarksAgree ∧ s.RepairMarksAgree ∧ s.PostListAgrees

/-! ## Posts are made on trusted lines -/

/-- A line that is POSTED or INFLIGHT_POSTED is VALID with no apply pending (R10). -/
def State.PostsTrusted (s : State) : Prop :=
  ∀ l, (s.lineRec l).pending.post.isSome = true →
    (s.lineRec l).content = .valid ∧ (s.lineRec l).applyPending = false

/-- What the Apply Queue holds for a line: no stamp newer than the current stamp, no two FULL entries at one stamp
(R34), and for a line in flight that is not superseded only a heal, with the line not VALID (R27, R43). -/
def State.EntriesFollowStamps (s : State) : Prop :=
  (∀ e ∈ s.applyQueue, (s.lineRec e.line).stamp.atLeast e.stamp = true)
    ∧ s.applyQueue.Pairwise (fun a b => a.kind = .full → b.kind = .full → a.line = b.line → a.stamp ≠ b.stamp)
    ∧ ∀ e ∈ s.applyQueue, ∀ f, (s.lineRec e.line).pending = .inflight f → f.superseded = false →
        e.kind = .full ∧ e.stamp = (s.lineRec e.line).stamp ∧ (s.lineRec e.line).content ≠ .valid

/-- Every entry of the Apply Queue carries one byte for each position of its mask, all 32 for a FULL and 1 to 32 for a
DELTA (R34). -/
def State.EntriesFit (s : State) : Prop :=
  ∀ e ∈ s.applyQueue, e.data.length = popcount e.mask ∧ e.mask ≠ 0 ∧ (e.kind = .full → e.mask = Mask.all)

/-! ## The Outstanding Table and the lines it tracks -/

/-- A line is INFLIGHT or INFLIGHT_POSTED exactly while an in-use UPDATE slot names it, no two slots of one purpose name
one line, and the line of a REPAIR slot is listed (R60, R72, R104). -/
def State.SlotsAgree (s : State) : Prop :=
  (∀ l f, (s.lineRec l).pending.flight = some f → (s.slot f.slot).names .update l = true)
    ∧ (∀ i l, (s.slot i).names .update l = true → ∃ f, (s.lineRec l).pending.flight = some f ∧ f.slot = i)
    ∧ (∀ i j l, (s.slot i).names .repair l = true → (s.slot j).names .repair l = true → i = j)
    ∧ ∀ i l, (s.slot i).names .repair l = true → (s.lineRec l).listed = true

/-- Outside ONLINE no slot is in use and no line fetch of the Framer is under way (R57, R58, R94). -/
def State.QuietOutsideOnline (s : State) : Prop :=
  s.station ≠ .online → s.build = none ∧ ∀ i, (s.slot i).use = none

/-! ## The ring side -/

/-- The bytes of the head of the Bypass FIFO that have been sent are some of it, an own frame that is sent stands in the
place, and the FIFO holds at most its 128 bytes (R143, R144). -/
def State.SendingAgrees (s : State) : Prop :=
  (∀ n, s.sending = .forwarded n → ∃ f rest, s.fifo = f :: rest ∧ n ≤ f.length)
    ∧ (s.sending = .own → s.place.isSome = true) ∧ s.fifoBytes ≤ 128

/-- How the Forwarding Unit follows the station state: an active station is active on the ring or has a switch to active
asked for, any other is pass-through or has a switch to pass-through asked for (R136 to R139); a pass-through link holds
no frame, and one that is about to be left holds only the frame it completes (R136, R138). -/
def State.LinkAgrees (s : State) : Prop :=
  s.station.isActive = ((s.linkMode == .active) != s.switchAsked)
    ∧ (s.linkMode ≠ .active → s.fifo = [] ∧ s.sending = .idle ∧ s.receiving = false)
    ∧ (s.linkMode = .active → s.switchAsked = true →
        s.receiving = false ∧ s.fifo.length ≤ 1 ∧ (s.fifo ≠ [] → ∃ n, s.sending = .forwarded n))
    ∧ (s.station.isActive = false → s.place.isSome = true → s.sending = .own)

/-! ## The station -/

/-- What the station state says of the records the Station Controller and its neighbours keep: a station that has left
OFFLINE is locked, a locked record is in range (R150, R151, R153); outside the active states nothing of a probe round
stands and the membership map is empty (R159, R166, R171); outside ONLINE and ISOLATED the Answer Queue is empty (R113);
before the clearing pass ends the station is OFFLINE and unlocked with nothing queued to apply (R14, R17, R153); an
access waits for CLEARING only while CLEARING is shown (R15). -/
def State.StationAgrees (s : State) : Prop :=
  (s.station ≠ .offline → s.locked = true)
    ∧ (s.locked = true → s.config.inRange = true)
    ∧ (s.station.isActive = false →
        s.membership = 0 ∧ s.probe.due = false ∧ s.probe.outstanding = none ∧ s.probe.timer = none
          ∧ s.probe.losses = 0)
    ∧ (s.station.isActive = true → s.probe.timer.isSome = true)
    ∧ (s.station ≠ .online → s.station ≠ .isolated → s.answerQueue = [])
    ∧ (s.phase ≠ .ended → s.station = .offline ∧ s.locked = false ∧ s.applyQueue = [])
    ∧ ∀ a, s.access = some a → a.phase = .clearing → s.clearingShown = true

/-- A drain is pending only in an active station, and only while a post waits or an UPDATE slot is in use (R194, R195). -/
def State.DrainAgrees (s : State) : Prop :=
  s.drainPending = true → s.station.isActive = true ∧ s.drained = false

/-! ## Ranges -/

/-- Every byte listed lies in the replica window and everything that names a line names one of the 4096 (R2, R6). -/
def State.WithinReplica (s : State) : Prop :=
  (∀ c ∈ s.mem, c.1 < 131072) ∧ (∀ c ∈ s.codes, c.1 < 4096) ∧ (∀ c ∈ s.lines, c.1 < 4096)
    ∧ (∀ e ∈ s.applyQueue, e.line < 4096) ∧ (∀ l ∈ s.postList, l < 4096)
    ∧ (∀ e ∈ s.repairList, e.line < 4096) ∧ (∀ l ∈ s.answerQueue, l < 4096)
    ∧ (∀ i u, (s.slot i).use = some u → u.line < 4096)
    ∧ (∀ l, s.build = some (.post l) → l < 4096)
    ∧ s.sweep.pointer < 4096 ∧ s.query.line < 4096
    ∧ ∀ n, s.phase = .clearing n → n < 4096

end Sys2Proof.Machine
end

