-- ==== Sys2Proof/Certificates/Slice0/Obligations.lean ====
section
/-! DEFINITION. The statements about the part: what each command does and leaves unchanged, the formats of its frames, and
the invariants every step keeps. -/

/-! ## Words the statements are made of -/

namespace Sys2Proof.Machine

/-- The notices of one step, placed in turn (R190, R191). -/
def noticesAfter (q ns : List Notice) : List Notice := ns.foldl placeNotice q

/-- The step gives these notices and then, when it completes a pending drain, DRAINED COMPLETE (R195). That DRAINED is
the last of its step is the model's reading (log 11). -/
def GivesAndDrains (s t : State) (ns : List Notice) : Prop :=
  t.notices = noticesAfter s.notices (ns ++ if s.drainPending && t.drained then [.drained .complete] else [])
    ∧ t.drainPending = (s.drainPending && !t.drained)

/-- One line's record takes a value and every other line's record stays. -/
def OnlyRecord (s t : State) (l : Nat) (r : LineRecord) : Prop :=
  t.lineRec l = r ∧ ∀ k, k ≠ l → t.lineRec k = s.lineRec k

/-- One slot takes a value and every other slot stays. -/
def OnlySlot (s t : State) (i : SlotNo) (x : Slot) : Prop := t.slot i = x ∧ ∀ j, j ≠ i → t.slot j = s.slot j

/-- Every byte of the replica reads as before. -/
def SameBytes (s t : State) : Prop := ∀ a, t.byteAt a = s.byteAt a

/-- A pending state without its post (R99, R100). -/
def Pending.withoutPost : Pending → Pending
  | .idle | .posted _ => .idle
  | .inflight f | .inflightPosted f _ => .inflight f

/-- The record of a line after a check failure (R97 to R100): its post is withdrawn with its stamp, it is SUSPECT, and it
is listed if there is room. -/
def failedRecord (s : State) (l : Nat) : LineRecord :=
  { s.lineRec l with
    stamp := ((s.lineRec l).pending.post.map Post.base).getD (s.lineRec l).stamp
    content := .suspect
    pending := (s.lineRec l).pending.withoutPost
    listed := (s.lineRec l).listed || decide (s.repairList.length < 32) }

/-- What a check failure of a line does to the Repair List and the Post List (R98 to R100). -/
def FailureLists (s t : State) (l : Nat) : Prop :=
  t.repairList =
      (if (s.lineRec l).listed = true ∨ 32 ≤ s.repairList.length then s.repairList
        else s.repairList ++ [⟨l, s.now⟩])
    ∧ t.postList =
      if (s.lineRec l).pending.post.isSome = true then s.postList.filter (· != l) else s.postList

/-- What a check failure does to the line, the Post List and the Repair List (R97 to R102). -/
def FailsCheck (s t : State) (l : Nat) : Prop := OnlyRecord s t l (failedRecord s l) ∧ FailureLists s t l

/-- LOCAL-LOST for a line whose post a check failure withdraws (R99, R100). -/
def lostNotice (s : State) (l : Nat) : List Notice :=
  if (s.lineRec l).pending.post.isSome = true then [.localLost l] else []

/-- A local access whose claim is granted and acts: it is in progress, its claim is granted, and its line has no apply
pending unless it is the held line (R17, R49, R174). -/
def GrantActs (s : State) (a : Access) : Prop :=
  s.access = some a ∧ s.grantsLocal = true
    ∧ ((s.lineRec (lineOf a.la)).applyPending = false ∨ s.isHeld (lineOf a.la) = true)

/-- The hold record after a claim that acts (R180). -/
def holdAtGrant (s : State) (a : Access) : Hold :=
  if a.lhold = true ∧ s.hold = .free ∧ s.config.holdLimit ≠ 0 then
    .held (lineOf a.la) (s.now + s.config.holdLimit.toNat)
  else s.hold

/-- The enabled bytes of a word are stored in its line with a fresh check code, and nothing else is (R2, R3, R18). -/
def StoresWord (s t : State) (la : BitVec 15) (be : BitVec 4) (ld : Word) : Prop :=
  (∀ p, p < 32 → t.byteAt (32 * lineOf la + p) =
      if p / 4 = wordOf la ∧ be.getLsbD (3 - p % 4) = true then ld.extractLsb' (8 * (3 - p % 4)) 8
      else s.byteAt (32 * lineOf la + p))
    ∧ (∀ a, a / 32 ≠ lineOf la → t.byteAt a = s.byteAt a)
    ∧ t.checkGood (lineOf la) = true ∧ ∀ k, k ≠ lineOf la → t.lineCode k = s.lineCode k

/-- A line's bytes are replaced whole with a fresh check code, and nothing else is stored (R3). -/
def StoresLine (s t : State) (l : Nat) (bytes : Nat → Byte) : Prop :=
  (∀ p, p < 32 → t.byteAt (32 * l + p) = bytes p) ∧ (∀ a, a / 32 ≠ l → t.byteAt a = s.byteAt a)
    ∧ t.checkGood l = true ∧ ∀ k, k ≠ l → t.lineCode k = s.lineCode k

/-- The pending state after a raise by a peer's frame (R42, R43, R44). -/
def Pending.afterRaise : Pending → Pending
  | .idle | .posted _ => .idle
  | .inflight f | .inflightPosted f _ => .inflight { f with superseded := true }

/-- Whether a raise takes a write the processor has not been told of, so that SUPERSEDED is given (R42, R43, R44). -/
def Pending.losesToRaise : Pending → Bool
  | .idle => false
  | .posted _ | .inflightPosted _ _ => true
  | .inflight f => !f.superseded

/-- A whole frame of a peer that is acted on: received whole, check good, not malformed, not of this origin, budget above
0 (R131, R133, R134, R135). -/
def ToActOn (s : State) (f : List Byte) : Prop :=
  s.receives = true ∧ s.receiving = true ∧ f.length ≤ 58 ∧ Frame.checkGood f = true ∧ Frame.malformed f = false
    ∧ Frame.origin f ≠ s.config.stationNumber ∧ Frame.budget f ≠ 0

/-- A whole frame of this origin that is stripped (R77). -/
def ToStrip (s : State) (f : List Byte) : Prop :=
  s.receives = true ∧ s.receiving = true ∧ f.length ≤ 58 ∧ Frame.checkGood f = true ∧ Frame.malformed f = false
    ∧ Frame.origin f = s.config.stationNumber

/-- The frame is an update of this kind for a line within the window (R23). -/
def UpdateFor (s : State) (f : List Byte) (k : UpdateKind) : Prop :=
  ToActOn s f ∧ s.inWindow (Frame.line f) = true
    ∧ Frame.kind f = (match k with | .full => FrameKind.full | .delta => FrameKind.delta)

/-- The byte mask and the data of an update frame (R34, R199). -/
def frameMask (f : List Byte) : UpdateKind → Mask
  | .full => Mask.all
  | .delta => Frame.mask f

/-- The data bytes of an update frame (R199). -/
def frameData (f : List Byte) : UpdateKind → List Byte
  | .full => Frame.fullData f
  | .delta => Frame.deltaData f

/-- The forwarded copy enters the Bypass FIFO when it has room for all its bytes and is dropped otherwise, with the bytes
of the head that ring-out has sent by now freed (R143; log 8). -/
def ForwardsCopy (s t : State) (f : List Byte) (m : Marks) (sent : Nat) : Prop :=
  t.fifo = (if (s.progress sent).fifoBytes + f.length ≤ 128 then s.fifo ++ [Frame.forwarded f m] else s.fifo)
    ∧ t.sending = (s.progress sent).sending

/-- A matched return of a slot: the four conditions of R78, the fourth by the deadline's presence. That a slot still awaits
after a return matched with ANSWERED set, which leaves its deadline (R91), is the model's choice (log 35). -/
def MatchedReturn (s : State) (f : List Byte) (p : Purpose) (u : SlotUse) : Prop :=
  (s.slot (Frame.slot f)).use = some u ∧ u.purpose = p
    ∧ Frame.generation f = (s.slot (Frame.slot f)).generation - 1 ∧ u.deadline.isSome = true

/-- The pending state of a line once the slot that tracks its flight is abandoned (R95). -/
def LineRecord.pendingAbandoned (r : LineRecord) : Pending :=
  match r.pending with
  | .idle => .idle
  | .posted p => .posted p
  | .inflight f =>
    if f.superseded = true ∨ r.content ≠ .valid then .idle else .posted ⟨r.stamp, Mask.all, true⟩
  | .inflightPosted _ p => .posted { p with mustFull := true }

/-- Every slot is abandoned: free with its generation kept; each line's pending state moved by R95; lines that were
INFLIGHT and are re-posted join the Post List in the order of their slot numbers (R94, R95). -/
def Abandons (s t : State) : Prop :=
  (∀ i, t.slot i = { s.slot i with use := none })
    ∧ (∀ l, (t.lineRec l).pending = (s.lineRec l).pendingAbandoned)
    ∧ t.postList =
        s.postList ++ allSlots.filterMap fun i =>
          match (s.slot i).use with
          | some u =>
            if u.purpose = .update ∧ (s.lineRec u.line).pending = .inflight ⟨i, false⟩
                ∧ (s.lineRec u.line).content = .valid then some u.line
            else none
          | none => none

/-- Entry to ISOLATED (R155): abandonment, no other field of a record changed, RING-DOWN from ONLINE, and a drain
completed when nothing is left to wait for, with DRAINED COMPLETE behind RING-DOWN (log 11). -/
def EntersIsolated (s t : State) (detail : RingDownDetail) : Prop :=
  Abandons s t ∧ (∀ l, t.lineRec l = { s.lineRec l with pending := (t.lineRec l).pending })
    ∧ t.station = .isolated ∧ GivesAndDrains s t (if s.station = .online then [.ringDown detail] else [])

/-- What entry to ISOLATED leaves in the Forwarding Unit's place: an insertion begun, or a waiting PROBE; a waiting FULL,
DELTA or REQUEST is withdrawn (R76). -/
def placeIsolated (s : State) : Option (List Byte) :=
  s.place.filter fun f => s.sending == .own || Frame.kind f == .probe

/-- What LEAVE and entry to FAULT do but for the drain and its notices (R94, R118, R138, R154, R156, R171). The Framer's
build is cancelled (R57); a switch that can be made at once is made in the step (log 19); a switch to active not yet made is
cancelled (log 20). -/
def Departs (s t : State) (target : StationState) : Prop :=
  Abandons s t
    ∧ (∀ l, t.lineRec l = { s.lineRec l with pending := (t.lineRec l).pending, listed := false })
    ∧ t.repairList = [] ∧ t.answerQueue = [] ∧ t.build = none ∧ t.station = target ∧ t.membership = 0
    ∧ t.probe = { s.probe with due := false, outstanding := none, timer := none, losses := 0 }
    ∧ t.receiving = false
    ∧ t.fifo = (match s.sending with | .forwarded _ => s.fifo.take 1 | .idle | .own => [])
    ∧ t.place = (if s.sending = .own then s.place else none)
    ∧ (s.linkMode ≠ .active → t.linkMode = s.linkMode ∧ t.switchAsked = false)
    ∧ (s.linkMode = .active → s.sending = .idle → t.linkMode = .idleUntilStart ∧ t.switchAsked = false)
    ∧ (s.linkMode = .active → s.sending ≠ .idle → t.linkMode = .active ∧ t.switchAsked = true)

/-- Only the fields that `Departs` names, the drain mark and the notices differ. -/
def DepartFrame (s t : State) : Prop :=
  t = { s with
    slots := t.slots, lines := t.lines, postList := t.postList, repairList := t.repairList
    answerQueue := t.answerQueue, build := t.build, station := t.station, membership := t.membership
    probe := t.probe, receiving := t.receiving, fifo := t.fifo, place := t.place, linkMode := t.linkMode
    switchAsked := t.switchAsked, drainPending := t.drainPending, notices := t.notices }

/-- An access taken now: none is in progress and RESET is not asserted (R172, R173). -/
abbrev PortTakes (s : State) : Prop := s.access = none ∧ s.resetAsserted = false

/-- A step completes the access, with LRDY or LERR and a word on LD, and gives these notices (R172, R173). -/
def Completes (s t : State) (ok : Bool) (ld : Option Word) (ns : List Notice) : Prop :=
  t.access = none ∧ t.completion = some ⟨ok, ld⟩ ∧ t.notices = noticesAfter s.notices ns

/-- A step leaves the access in progress, in a phase of its course, with no notice. -/
def Waits (s t : State) (a : Access) (phase : AccessPhase) : Prop :=
  t.access = some { a with phase } ∧ t.completion = none ∧ t.notices = s.notices

/-- Where a read or a write that does not wait for CLEARING comes to stand in the step that takes it, by the steps of R49 and
R174; the hold is read once LHOLD has been sampled. An access is refused for LHOLD under a BROKEN hold only while the hold
limit is not 0: so the model joins R180 with R184 (log 17). -/
def TakenBySteps (s t : State) (a : Access) : Prop :=
  match a.kind with
  | .read =>
    if s.inWindow (lineOf a.la) = false then Completes s t false (some 0) []
    else if a.lhold = true ∧ t.holdIsBroken = true ∧ s.config.holdLimit ≠ 0 then Completes s t false (some 0) []
    else if (s.lineRec (lineOf a.la)).applyPending = true ∧ t.isHeld (lineOf a.la) = false then Waits s t a .apply
    else Waits s t a .claim
  | .write be _ =>
    if s.inWindow (lineOf a.la) = false then Completes s t false none []
    else if be = 0 then Completes s t true none []
    else if a.lhold = true ∧ t.holdIsBroken = true ∧ s.config.holdLimit ≠ 0 then
      Completes s t false none [.writeRefused (lineOf a.la) .holdBroken]
    else if (s.lineRec (lineOf a.la)).applyPending = true then
      if t.isHeld (lineOf a.la) = true then Completes s t false none [.writeRefused (lineOf a.la) .overtaken]
      else Waits s t a .apply
    else Waits s t a .claim

/-- The Framer's claim is granted for a build (R17, R57). -/
abbrev FetchGranted (s : State) (b : Build) : Prop := s.build = some b ∧ s.grantsFramer = true

/-- The ranges in which START accepts the fields of the configuration record (R149, R151). -/
def InRange (c : ConfigRecord) : Prop :=
  c.stationNumber.toNat ≤ 31 ∧ 1 ≤ c.instanceToken.toNat ∧ (2 ≤ c.ringSpan.toNat ∧ c.ringSpan.toNat ≤ 32)
    ∧ (c.windowSize = 512 ∨ c.windowSize = 1024 ∨ c.windowSize = 2048 ∨ c.windowSize = 4096)
    ∧ 10 ≤ c.returnLimit.toNat ∧ (1 ≤ c.retryLimit.toNat ∧ c.retryLimit.toNat ≤ 7)
    ∧ c.returnLimit.toNat ≤ c.probeInterval.toNat ∧ (c.deltaEnable = 0 ∨ c.deltaEnable = 1)

/-- No line at or beyond the window is POSTED, listed or watched (R151). A waiting post behind a flight cannot stand
before the first START, and START asks for POSTED alone. -/
def NoneBeyondWindow (s : State) : Prop :=
  ∀ l, s.inWindow l = false →
    (s.lineRec l).listed = false ∧ (s.lineRec l).watched = false ∧ ∀ p, (s.lineRec l).pending ≠ .posted p

/-- A retry becomes due below the retry limit; at it the slot is freed, the line leaves the Repair List and UNREPAIRED is
given (R81, R90, R92). -/
def RetriesOrGivesUp (s t : State) (i : SlotNo) (u : SlotUse) : Prop :=
  (u.attempts < s.config.retryLimit.toNat →
      t = { s with slots := t.slots, dueCount := s.dueCount + 1 }
        ∧ OnlySlot s t i
          { s.slot i with
            use := some { u with
              attempts := u.attempts + 1, due := some ⟨.retry, s.dueCount⟩, deadline := none } })
    ∧ (s.config.retryLimit.toNat ≤ u.attempts →
      t = { s with
          slots := t.slots, lines := t.lines
          repairList := s.repairList.filter fun e => e.line != u.line
          notices := noticesAfter s.notices [.unrepaired u.line] }
        ∧ OnlySlot s t i { s.slot i with use := none }
        ∧ OnlyRecord s t u.line { s.lineRec u.line with listed := false })

/-- A stamp as a receiver takes it from its seven bytes: a writer byte above 31 is writer none (R199). -/
def Stamp.asReceived (t : Stamp) : Stamp := { t with writer := t.writer.filter fun w => decide (w.toNat < 32) }

/-! The words of the control window, field by field (R201, R202). -/

/-- The configuration words (R150, R201). -/
def ConfigurationReads (s : State) : Prop :=
  (∃ w, s.controlWord 0 = some w ∧ w.extractLsb' 24 8 = s.config.stationNumber
      ∧ w.extractLsb' 16 8 = s.config.ringSpan ∧ w.extractLsb' 0 16 = s.config.instanceToken)
    ∧ (∃ w, s.controlWord 1 = some w ∧ w.extractLsb' 16 16 = s.config.returnLimit
      ∧ w.extractLsb' 0 16 = s.config.probeInterval)
    ∧ (∃ w, s.controlWord 2 = some w ∧ w.extractLsb' 16 16 = s.config.sweepInterval
      ∧ w.extractLsb' 8 8 = s.config.holdLimit ∧ w.extractLsb' 0 8 = s.config.retryLimit)
    ∧ ∃ w, s.controlWord 3 = some w ∧ w.extractLsb' 16 16 = s.config.windowSize
      ∧ w.extractLsb' 8 8 = 0 ∧ w.extractLsb' 0 8 = s.config.deltaEnable

/-- The command word, the command result, the membership map, and the offsets that have no word (R177, R179, R201). -/
def CommandReads (s : State) : Prop :=
  s.controlWord 4 = some s.commandWord
    ∧ s.controlWord 5 =
      some (match s.result with
        | .accepted => 0
        | .wrongState => 1
        | .configInvalid => 2
        | .notReady => 3
        | .badLine => 4
        | .locked => 5)
    ∧ (∃ w, s.controlWord 7 = some w ∧ ∀ k, k < 32 → w.getLsbD k = s.membership.getLsbD k)
    ∧ ∀ o, 13 ≤ o → s.controlWord o = none

/-- The query words (R202). -/
def QueryReads (s : State) : Prop :=
  (s.query.line < 65536 →
      ∃ w, s.controlWord 8 = some w ∧ (w.extractLsb' 16 16).toNat = s.query.line
        ∧ w.extractLsb' 8 8 = s.query.stamp.writer.getD 255
        ∧ w.extractLsb' 6 2 = (match s.query.content with | .valid => 0#2 | .stale => 1 | .suspect => 2)
        ∧ w.extractLsb' 4 2 =
          (match s.query.pending with | .idle => 0#2 | .posted => 1 | .inflight => 2 | .inflightPosted => 3)
        ∧ w.getLsbD 3 = false ∧ w.getLsbD 2 = s.query.applyPending ∧ w.getLsbD 1 = s.query.watched
        ∧ w.getLsbD 0 = s.query.listed)
    ∧ (∃ w, s.controlWord 9 = some w ∧ w.extractLsb' 16 16 = 0
      ∧ w.extractLsb' 0 16 = s.query.stamp.version.extractLsb' 32 16)
    ∧ s.controlWord 10 = some (s.query.stamp.version.extractLsb' 0 32)

/-- What the notice words show of a notice: kind and detail codes, line and station where it names them. -/
structure NoticeFields where
  kind : BitVec 8
  detail : BitVec 8
  line : Option Nat
  station : Option Byte
deriving DecidableEq, Repr

/-- The fields and codes of each kind of notice (R189, R202). -/
def noticeFields : Notice → NoticeFields
  | .foreign l w d => ⟨1, (match d with | .applied => 1 | .healed => 2 | .missed => 3), some l, w⟩
  | .confirmed l => ⟨2, 0, some l, none⟩
  | .superseded l w => ⟨3, 0, some l, w⟩
  | .undelivered l d => ⟨4, (match d with | .missed => 1 | .timeout => 2), some l, none⟩
  | .localLost l => ⟨5, 0, some l, none⟩
  | .writeRefused l r =>
    ⟨6, (match r with | .stale => 1 | .suspect => 2 | .overtaken => 3 | .versionLimit => 4 | .holdBroken => 5), some l, none⟩
  | .unrepaired l => ⟨7, 0, some l, none⟩
  | .holdBroken l => ⟨8, 0, some l, none⟩
  | .ringUp => ⟨9, 0, none, none⟩
  | .ringDown d => ⟨10, (match d with | .carrier => 1 | .probes => 2), none, none⟩
  | .membership n => ⟨11, BitVec.ofNat 8 n, none, none⟩
  | .identityClash => ⟨12, 0, none, none⟩
  | .drained d => ⟨13, (match d with | .complete => 1 | .incomplete => 2), none, none⟩
  | .overflow => ⟨14, 0, none, none⟩

/-- Notice word 1 of the head notice; every bit 0 while the queue is empty (R192, R202). -/
def NoticeOneReads (s : State) : Prop :=
  (s.notices = [] → s.controlWord 11 = some 0)
    ∧ ∀ n rest, s.notices = n :: rest →
      ∃ w, s.controlWord 11 = some w ∧ w.extractLsb' 24 8 = (noticeFields n).kind
        ∧ w.extractLsb' 16 8 = (noticeFields n).detail ∧ w.getLsbD 15 = (noticeFields n).line.isSome
        ∧ w.getLsbD 14 = (noticeFields n).station.isSome ∧ w.extractLsb' 0 14 = 0

/-- The header of a frame: kind code, flags, hop budget, origin, tag and line (R198). -/
def HeaderReads (f : List Byte) (kind : FrameKind) (untracked : Bool) (budget origin tag : Byte) (line : Nat) : Prop :=
  Frame.kind f = kind ∧ Frame.missed f = false ∧ Frame.answered f = false ∧ Frame.untracked f = untracked
    ∧ Frame.budget f = budget ∧ Frame.origin f = origin ∧ Frame.tag f = tag ∧ Frame.line f = line

/-- The frame passes its check and is not malformed (R133, R134). -/
def ReceivedWell (f : List Byte) : Prop := Frame.checkGood f = true ∧ Frame.malformed f = false

/-- The access that waits for apply pending goes on to its claim when its line no longer has it or is the held line
(R49, R176). -/
def accessGoesOn (s t : State) : Option Access :=
  s.access.map fun a =>
    if a.phase = .apply
        ∧ ((t.lineRec (lineOf a.la)).applyPending = false ∨ s.isHeld (lineOf a.la) = true) then
      { a with phase := .claim }
    else a

/-- FOREIGN for an entry that completes on a watched line that is VALID after it (R47). -/
def appliedNotice (r : LineRecord) (content : Content) (e : ApplyEntry) : List Notice :=
  if r.watched = true ∧ content = .valid then
    [.foreign e.line e.stamp.writer (match e.cause with | .raise => .applied | .heal => .healed)] else []

/-- The slot whose transmission became due first (R59). -/
def FirstDue (s : State) (i : SlotNo) (u : SlotUse) (d : Due) : Prop :=
  (s.slot i).use = some u ∧ u.due = some d
    ∧ ∀ j v e, j ≠ i → (s.slot j).use = some v → v.due = some e → d.order < e.order

/-- No slot has a transmission due (R59). -/
def NoneDue (s : State) : Prop := ∀ i u, (s.slot i).use = some u → u.due = none

/-- A listed line may be asked for (R105), the membership map read for its writer (R167). -/
def MayAsk (s : State) (e : RepairEntry) : Prop :=
  (s.lineRec e.line).applyPending = false
    ∧ ((s.lineRec e.line).content = .suspect
      ∨ ((s.lineRec e.line).content = .stale
        ∧ (e.listedAt + s.config.returnLimit.toNat ≤ s.now
          ∨ ∀ w, (s.lineRec e.line).stamp.writer = some w → s.membership.getLsbD w.toNat = false)))

/-- A listed line that may be asked for and has no REPAIR slot (R59). -/
def Unasked (s : State) (e : RepairEntry) : Prop := MayAsk s e ∧ ∀ i, (s.slot i).names .repair e.line = false

/-- The lowest-numbered free slot (R61). -/
def LowestFree (s : State) (i : SlotNo) : Prop :=
  (s.slot i).use = none ∧ ∀ j : SlotNo, j < i → (s.slot j).use ≠ none

/-- Every slot is in use. -/
def NoneFree (s : State) : Prop := ∀ i, (s.slot i).use ≠ none

/-- The repair request source is ready: the line listed earliest among those not asked for, and its slot (R59, R61). -/
def RequestReady (s : State) (e : RepairEntry) (i : SlotNo) : Prop :=
  (∃ before after, s.repairList = before ++ e :: after ∧ Unasked s e ∧ ∀ x ∈ before, ¬ Unasked s x) ∧ LowestFree s i

/-- The repair request source is not ready (R59). -/
def NoRequestReady (s : State) : Prop := (∀ e ∈ s.repairList, ¬ Unasked s e) ∨ NoneFree s

/-- A line whose pending state is POSTED. -/
def Posted (s : State) (l : Nat) : Prop := ∃ p, (s.lineRec l).pending = .posted p

/-- The post source is ready: the oldest entry that is POSTED, and its slot (R56, R59, R61). -/
def PostReady (s : State) (l : Nat) : Prop :=
  (∃ before after, s.postList = before ++ l :: after ∧ Posted s l ∧ ∀ x ∈ before, ¬ Posted s x)
    ∧ s.updateSlots < 14 ∧ ∃ i, (s.slot i).use = none

/-- The post source is not ready (R59). -/
def NoPostReady (s : State) : Prop := (∀ l ∈ s.postList, ¬ Posted s l) ∨ 14 ≤ s.updateSlots ∨ NoneFree s

/-- The Framer can choose, and no probe is due (R57, R59). -/
def ChoosesPastProbe (s : State) : Prop :=
  s.place = none ∧ s.build = none ∧ s.station = .online ∧ s.probe.due = false

/-- The FULL this station builds of a line at a stamp, with its header values (R64, R199). -/
def ownFull (s : State) (untracked : Bool) (tag : Byte) (l : Nat) (stamp : Stamp) : List Byte :=
  Frame.full untracked s.config.ringSpan s.config.stationNumber tag l stamp
    ((List.range 32).map fun p => s.byteAt (32 * l + p))

/-- A REQUEST of this station for a line at a stamp, on a slot (R64, R199). -/
def ownRequest (s : State) (i : SlotNo) (l : Nat) (stamp : Stamp) : List Byte :=
  Frame.request s.config.ringSpan s.config.stationNumber (Frame.slotTag i (s.slot i).generation) l stamp

/-- The Sweep Unit after a step: the pointer advanced, from the window's last line to 0, and the latch clear (R121,
R126). -/
def sweptOn (s : State) : SweepUnit :=
  { s.sweep with
    pointer := if s.sweep.pointer + 1 < s.window then s.sweep.pointer + 1 else 0
    due := false }

/-- The refresh case: VALID, written by this station, IDLE, no apply pending (R122). -/
def RefreshCase (s : State) (l : Nat) : Prop :=
  (s.lineRec l).content = .valid ∧ (s.lineRec l).pending = .idle ∧ (s.lineRec l).applyPending = false
    ∧ (s.lineRec l).stamp.writer = some s.config.stationNumber

/-- The command that a write access gives, by its word address (R172, R177, R178, R201): the replica window; the configuration
words; the command word, by the code in bits 31 to 24 and the argument in bits 15 to 0; a read-only word, or any assigned word
with a byte enable deasserted; no word. -/
def WritesGiveCommands : Prop :=
  ∀ (la : BitVec 16) (be : BitVec 4) (v : Word) (h : Bool),
    (la.toNat < 32768 →
        ∃ w : BitVec 15, w.toNat = la.toNat ∧ writeCommand la be v h = .replicaWrite w be v h)
      ∧ (32768 ≤ la.toNat → la.toNat < 32772 → be = 15 →
        ∃ k : BitVec 2, k.toNat = la.toNat - 32768 ∧ writeCommand la be v h = .configWrite k v)
      ∧ (la = 32772 → be = 15 →
        writeCommand la be v h =
          (if v.extractLsb' 24 8 = 1 then .start (v.extractLsb' 0 16)
          else if v.extractLsb' 24 8 = 2 then .leave (v.extractLsb' 0 16)
          else if v.extractLsb' 24 8 = 3 then .drain (v.extractLsb' 0 16)
          else if v.extractLsb' 24 8 = 4 then .watch (v.extractLsb' 0 16)
          else if v.extractLsb' 24 8 = 5 then .unwatch (v.extractLsb' 0 16)
          else if v.extractLsb' 24 8 = 6 then .query (v.extractLsb' 0 16)
          else if v.extractLsb' 24 8 = 7 then .intenable (v.extractLsb' 0 16)
          else .unknownCommand v))
      ∧ (32768 ≤ la.toNat → la.toNat < 32781 → (32773 ≤ la.toNat ∨ be ≠ 15) →
        ∃ o : BitVec 6, o.toNat = la.toNat - 32768 ∧ writeCommand la be v h = .readOnlyWrite o be v)
      ∧ (32781 ≤ la.toNat → writeCommand la be v h = .unassignedAccess la true)

/-- The listing case: STALE or SUSPECT, not listed, with room on the Repair List (R122), whatever work is outstanding on the
line (log 38). -/
def ListingCase (s : State) (l : Nat) : Prop :=
  (s.lineRec l).content ≠ .valid ∧ (s.lineRec l).listed = false ∧ s.repairList.length < 32

end Sys2Proof.Machine

open Sys2Proof Sys2Proof.Machine

/-! ## The step -/

/-- With a command at the front of the queue, a step is that command on the queue's rest. -/
def Obligations.StepTakesTheFrontCommand : Prop :=
  ∀ (c : Instr) (rest : List Instr) (s : State),
    step { s with pending := c :: rest } = exec c { s with pending := rest }

/-- Every command ends in a next state and leaves the queue of commands alone. With no command waiting a step is one tick of
the Timebase: the time advances by 1 µs and the timed events that have been reached are put in the queue, in an order left
open; nothing else changes. The tick is the model's choice: log 2, log 3. -/
def Obligations.EveryStepAnswersNext : Prop :=
  (∀ (c : Instr) (s : State), ∃ t, exec c s = .next t ∧ t.pending = s.pending)
    ∧ ∀ s : State, s.pending = [] →
    ∃ t, step s = .next t
      ∧ t = { s with now := s.now + 1, pending := t.pending, freeCount := t.freeCount }
      ∧ ∀ c, c ∈ t.pending ↔
          (c = .holdBreak ∧ ∃ l b, s.hold = .held l b ∧ b ≤ s.now + 1)
          ∨ (∃ i u d, (s.slot i).use = some u ∧ u.deadline = some d ∧ d ≤ s.now + 1
              ∧ c = (match u.purpose with | .update => Instr.updateDeadline i | .repair => Instr.repairDeadline i))
          ∨ (c = .probeLost ∧ ∃ p d, s.probe.outstanding = some p ∧ p.deadline = some d ∧ d ≤ s.now + 1)
          ∨ (c = .probeIntervalExpiry ∧ ∃ d, s.probe.timer = some d ∧ d ≤ s.now + 1)
          ∨ (c = .sweepTick ∧ ∃ d, s.sweep.timer = some d ∧ d ≤ s.now + 1)

/-! ## Reset and the clearing pass -/

/-- The values right after RESET that the spec states (R13, R22, R34, R55, R60, R103, R111, R129, R148, R149, R150, R159,
R166, R179, R187, R188, R190, R194). -/
def Obligations.ResetStateHoldsTheStatedValues : Prop :=
  State.reset.station = .offline ∧ State.reset.clearingShown = true
    ∧ (∀ l, State.reset.lineRec l = ⟨⟨0, none⟩, .valid, .idle, false, false, false⟩)
    ∧ State.reset.query = ⟨0, ⟨0, none⟩, .valid, .idle, false, false, false⟩
    ∧ State.reset.applyQueue = [] ∧ State.reset.postList = [] ∧ State.reset.repairList = []
    ∧ State.reset.answerQueue = [] ∧ State.reset.notices = []
    ∧ (∀ i, State.reset.slot i = ⟨0, none⟩)
    ∧ State.reset.sweep = ⟨0, false, false, none⟩
    ∧ State.reset.receiving = false ∧ State.reset.carrier = false ∧ State.reset.fifo = [] ∧ State.reset.place = none
    ∧ State.reset.ringOut = .repeatsRingIn
    ∧ State.reset.config = ⟨0, 0, 0, 0, 0, 0, 0, 0, 0, 0⟩ ∧ State.reset.locked = false
    ∧ State.reset.probe = ⟨0, false, none, none, 0⟩ ∧ State.reset.membership = 0 ∧ State.reset.drainPending = false
    ∧ State.reset.access = none ∧ State.reset.hold = .free ∧ State.reset.intEnable = false
    ∧ State.reset.commandWord = 0 ∧ State.reset.result = .accepted ∧ State.reset.nirqAsserted = false

/-- RESET gives every piece of state its reset value at once, with RESET asserted; the time, the queue of commands and the
model's counters go on (log 23). Its release begins the clearing pass at line 0 with CLEARING shown, and changes nothing
else (R13, R14). -/
def Obligations.ResetAndItsRelease : Prop :=
  (∀ s : State, exec .reset s =
    .next { State.reset with
      pending := s.pending, now := s.now, freeCount := s.freeCount, resetCount := s.resetCount + 1
      phase := .asserted })
    ∧ ∀ s : State, s.phase = .asserted →
      ∃ t, exec .resetRelease s = .next t ∧ t = { s with phase := .clearing 0 } ∧ t.clearingShown = true

/-- A claim of the clearing pass writes 32 zero bytes and their code into its line and no other byte; it changes no line
record; after line 4095 CLEARING ends, and an access that waited for it is taken as any access is, by the steps of R49 and
R174, while any other access stays as it is (R14, R15). -/
def Obligations.ClearingClaimZeroesItsLine : Prop :=
  ∀ (s : State) (n : Nat), s.phase = .clearing n → n < 4096 →
    ∃ t, exec .clearingPassClaim s = .next t
      ∧ t.phase = (if n < 4095 then .clearing (n + 1) else .ended)
      ∧ t.lineBytes n = List.replicate 32 0 ∧ t.checkGood n = true
      ∧ (∀ a, a < 131072 → a / 32 ≠ n → t.byteAt a = s.byteAt a)
      ∧ (∀ l, t.lineRec l = s.lineRec l)
      ∧ (n < 4095 → t = { s with mem := t.mem, codes := t.codes, phase := t.phase })
      ∧ (n = 4095 → t = { s with
            mem := t.mem, codes := t.codes, phase := t.phase
            access := t.access, completion := t.completion, notices := t.notices }
          ∧ (∀ a, s.access = some a → a.phase = .clearing → TakenBySteps s t a)
          ∧ ((∀ a, s.access = some a → a.phase ≠ .clearing) →
            t.access = s.access ∧ t.completion = s.completion ∧ t.notices = s.notices))

/-! ## Replica accesses -/

/-- A read of the replica window is taken: it waits for CLEARING, is answered LERR with a zero word for a line outside
the window or a broken hold, waits for apply pending of a line that is not held, or presents its claim; LHOLD deasserted
ends a hold or its broken record first (R15, R172 to R174, R182, R184). That a broken hold refuses a read with LHOLD only
while the hold limit is not 0 is the model's choice between R180 and R184 (log 17). -/
def Obligations.ReplicaReadIsTakenByItsSteps : Prop :=
  ∀ (s : State) (la : BitVec 15) (lhold : Bool), PortTakes s →
    ∃ t, exec (.replicaRead la lhold) s = .next t
      ∧ t = { s with hold := t.hold, access := t.access, completion := t.completion }
      ∧ t.hold = (if lhold = true then s.hold else .free)
      ∧ (s.clearingShown = true → Waits s t ⟨.read, la, lhold, .clearing⟩ .clearing)
      ∧ (s.clearingShown = false → TakenBySteps s t ⟨.read, la, lhold, .clearing⟩)

/-- A write of the replica window is taken by the steps of R49: it waits for CLEARING, completes with LERR outside the
window and with LRDY when no byte is enabled, is refused HOLD-BROKEN or OVERTAKEN at once, waits for apply pending of a
line that is not held, or presents its claim. With LHOLD deasserted a write with no byte enabled leaves a HELD hold alone
(R176) and ends a BROKEN one (R184): the model's choice between R176 and R184 (log 16). That a broken hold refuses a write
with LHOLD only while the hold limit is not 0 is the model's choice between R180 and R184 (log 17). -/
def Obligations.ReplicaWriteIsTakenByItsSteps : Prop :=
  ∀ (s : State) (la : BitVec 15) (be : BitVec 4) (ld : Word) (lhold : Bool), PortTakes s →
    ∃ t, exec (.replicaWrite la be ld lhold) s = .next t
      ∧ t = { s with hold := t.hold, access := t.access, completion := t.completion, notices := t.notices }
      ∧ t.hold = (if lhold = true ∨ (be = 0 ∧ s.holdIsBroken = false) then s.hold else .free)
      ∧ (s.clearingShown = true → Waits s t ⟨.write be ld, la, lhold, .clearing⟩ .clearing)
      ∧ (s.clearingShown = false → TakenBySteps s t ⟨.write be ld, la, lhold, .clearing⟩)

/-- A granted read whose check code is good returns the word of a VALID line with LRDY and completes with LERR and a zero
word on a STALE or SUSPECT one; byte k of the word, from bits 31 to 24 down, is position 4w + k of the line; the read may bind
the hold; the store holds what storage faults left in the line, and no record changes (R2, R18, R174, R175, R180). -/
def Obligations.GrantedReadReturnsTheWord : Prop :=
  ∀ (s : State) (a : Access) (u : Option Upset), GrantActs s a → a.kind = .read →
    (s.strike (lineOf a.la) u).checkGood (lineOf a.la) = true →
    ∃ w : Word, exec (.readClaimGranted u) s =
        .next { s.strike (lineOf a.la) u with
          hold := holdAtGrant s a
          access := none
          completion := some
            (if (s.lineRec (lineOf a.la)).content = .valid then ⟨true, some w⟩ else ⟨false, some 0⟩) }
      ∧ ∀ k, k < 4 → w.extractLsb' (8 * (3 - k)) 8 =
          (s.strike (lineOf a.la) u).byteAt (32 * lineOf a.la + 4 * wordOf a.la + k)

/-- A granted read whose check fails completes with LERR; the line turns SUSPECT, its post is withdrawn with LOCAL-LOST,
it is listed, and a drain that waited for it alone completes (R97 to R102, R195). That DRAINED COMPLETE comes behind
LOCAL-LOST is the model's reading (log 11). -/
def Obligations.GrantedReadThatFailsItsCheck : Prop :=
  ∀ (s : State) (a : Access) (u : Option Upset), GrantActs s a → a.kind = .read →
    (s.strike (lineOf a.la) u).checkGood (lineOf a.la) = false →
    ∃ t, exec (.readClaimGranted u) s = .next t
      ∧ t = { s.strike (lineOf a.la) u with
          hold := holdAtGrant s a, access := none, completion := some ⟨false, some 0⟩
          lines := t.lines, repairList := t.repairList, postList := t.postList
          notices := t.notices, drainPending := t.drainPending }
      ∧ FailsCheck s t (lineOf a.la) ∧ GivesAndDrains s t (lostNotice s (lineOf a.la))
      ∧ SameBytes (s.strike (lineOf a.la) u) t

/-- A granted claim that finds apply pending set again on a line that is not held changes nothing and returns the access
to its wait (R49, R174). -/
def Obligations.GrantThatFindsApplyPendingWaitsAgain : Prop :=
  ∀ (s : State) (a : Access) (u : Option Upset), s.access = some a → s.grantsLocal = true →
    (s.lineRec (lineOf a.la)).applyPending = true → s.isHeld (lineOf a.la) = false →
    (a.kind = .read →
        exec (.readClaimGranted u) s = .next { s with access := some { a with phase := .apply } })
      ∧ ∀ be ld, a.kind = .write be ld →
        exec (.writeClaimGranted u) s = .next { s with access := some { a with phase := .apply } }

/-- A write taken on an IDLE or INFLIGHT line begins a post on top of the current stamp: the next version, with the value of
the station number field as writer (R54; log 9), the mask of the positions it enables, must-full no; the line joins the Post
List and the enabled bytes are stored with a fresh check code (R18, R51, R52). -/
def Obligations.LocalWriteBeginsAPost : Prop :=
  ∀ (s : State) (a : Access) (be : BitVec 4) (ld : Word) (u : Option Upset), GrantActs s a → a.kind = .write be ld →
    (s.lineRec (lineOf a.la)).applyPending = false →
    (s.lineRec (lineOf a.la)).content = .valid → (s.strike (lineOf a.la) u).checkGood (lineOf a.la) = true →
    (s.lineRec (lineOf a.la)).pending.post = none →
    (s.lineRec (lineOf a.la)).stamp.version.toNat < 281474976710655 →
    ∃ t stamp mask, exec (.writeClaimGranted u) s = .next t
      ∧ t = { s.strike (lineOf a.la) u with
          mem := t.mem, codes := t.codes, lines := t.lines, postList := s.postList ++ [lineOf a.la]
          hold := holdAtGrant s a, access := none, completion := some ⟨true, none⟩ }
      ∧ StoresWord (s.strike (lineOf a.la) u) t a.la be ld
      ∧ OnlyRecord s t (lineOf a.la)
          { s.lineRec (lineOf a.la) with
            stamp := stamp
            pending :=
              match (s.lineRec (lineOf a.la)).pending.flight with
              | none => .posted ⟨(s.lineRec (lineOf a.la)).stamp, mask, false⟩
              | some f => .inflightPosted f ⟨(s.lineRec (lineOf a.la)).stamp, mask, false⟩ }
      ∧ stamp.version.toNat = (s.lineRec (lineOf a.la)).stamp.version.toNat + 1
      ∧ stamp.writer = some s.config.stationNumber
      ∧ ∀ p, p < 32 → Mask.has mask p = (decide (p / 4 = wordOf a.la) && be.getLsbD (3 - p % 4))

/-- A write taken on a POSTED or INFLIGHT_POSTED line joins the waiting post and widens its mask; on a POSTED line whose
base stamp is its current stamp it begins a post under the next version, written by this station, and keeps the mask, must-full
and the line's place (R53, R54; log 9). -/
def Obligations.LocalWriteJoinsAWaitingPost : Prop :=
  ∀ (s : State) (a : Access) (be : BitVec 4) (ld : Word) (u : Option Upset) (p : Post),
    GrantActs s a → a.kind = .write be ld →
    (s.lineRec (lineOf a.la)).applyPending = false →
    (s.lineRec (lineOf a.la)).content = .valid → (s.strike (lineOf a.la) u).checkGood (lineOf a.la) = true →
    (s.lineRec (lineOf a.la)).pending.post = some p →
    ((s.lineRec (lineOf a.la)).pending = .posted p → p.base = (s.lineRec (lineOf a.la)).stamp →
      (s.lineRec (lineOf a.la)).stamp.version.toNat < 281474976710655) →
    ∃ t stamp mask, exec (.writeClaimGranted u) s = .next t
      ∧ t = { s.strike (lineOf a.la) u with
          mem := t.mem, codes := t.codes, lines := t.lines
          hold := holdAtGrant s a, access := none, completion := some ⟨true, none⟩ }
      ∧ StoresWord (s.strike (lineOf a.la) u) t a.la be ld
      ∧ (∀ q, q < 32 → Mask.has mask q =
          (Mask.has p.mask q || (decide (q / 4 = wordOf a.la) && be.getLsbD (3 - q % 4))))
      ∧ (if (s.lineRec (lineOf a.la)).pending = .posted p ∧ p.base = (s.lineRec (lineOf a.la)).stamp then
          OnlyRecord s t (lineOf a.la) { s.lineRec (lineOf a.la) with stamp := stamp }
            ∧ stamp.version.toNat = (s.lineRec (lineOf a.la)).stamp.version.toNat + 1
            ∧ stamp.writer = some s.config.stationNumber
        else
          OnlyRecord s t (lineOf a.la)
            { s.lineRec (lineOf a.la) with
              pending :=
                match (s.lineRec (lineOf a.la)).pending.flight with
                | none => .posted { p with mask := mask }
                | some f => .inflightPosted f { p with mask := mask } })

/-- A granted write that meets a refusal completes with LERR, stores nothing and queues WRITE-REFUSED with the first reason
that applies: OVERTAKEN, STALE, SUSPECT, a failing check (SUSPECT), VERSION-LIMIT (R50). The write verifies the check code
whatever else refuses it, and a failing check has all its effects (R3, R18, R97). That a failing write to a line that is
OVERTAKEN or STALE reports that reason, by the order of R50, is the model's reading of R50 beside R97 (log 14), and that DRAINED
COMPLETE comes last is its reading too (log 11). -/
def Obligations.GrantedWriteIsRefusedByItsReasons : Prop :=
  ∀ (s : State) (a : Access) (be : BitVec 4) (ld : Word) (u : Option Upset), GrantActs s a → a.kind = .write be ld →
    let l := lineOf a.la
    let r := s.lineRec l
    let v := s.strike l u
    let refused (reason : RefuseReason) : State :=
      { v with
        hold := holdAtGrant s a, access := none, completion := some ⟨false, none⟩
        notices := noticesAfter s.notices [.writeRefused l reason] }
    (v.checkGood l = true →
        (r.applyPending = true → exec (.writeClaimGranted u) s = .next (refused .overtaken))
          ∧ (r.applyPending = false → r.content = .stale → exec (.writeClaimGranted u) s = .next (refused .stale))
          ∧ (r.applyPending = false → r.content = .suspect → exec (.writeClaimGranted u) s = .next (refused .suspect)))
      ∧ (v.checkGood l = false →
          ∃ t, exec (.writeClaimGranted u) s = .next t
            ∧ t = { v with
                hold := holdAtGrant s a, access := none, completion := some ⟨false, none⟩
                lines := t.lines, repairList := t.repairList, postList := t.postList
                notices := t.notices, drainPending := t.drainPending }
            ∧ FailsCheck s t l ∧ SameBytes v t
            ∧ GivesAndDrains s t
                (lostNotice s l
                  ++ [.writeRefused l
                    (if r.applyPending = true then .overtaken else if r.content = .stale then .stale else .suspect)]))
      ∧ (r.applyPending = false → r.content = .valid → v.checkGood l = true →
          r.stamp.version.toNat = 281474976710655 →
          (r.pending.post = none ∨ ∃ p, r.pending = .posted p ∧ p.base = r.stamp) →
          exec (.writeClaimGranted u) s = .next (refused .versionLimit))

/-! ## The line hold -/

/-- The line hold: LHOLD seen deasserted between accesses makes a HELD or BROKEN hold FREE and changes nothing else (R182,
R184); at the break time a HELD hold becomes BROKEN, HOLD-BROKEN is queued, and an access that carries LHOLD and waits for
apply pending completes with LERR, a write with WRITE-REFUSED HOLD-BROKEN behind it (R183, R185); while the head of the
Apply Queue is an entry for the held line, no entry completes (R36, R180). -/
def Obligations.TheLineHoldEndsBreaksAndHoldsBack : Prop :=
  (∀ s : State, s.access = none → exec .lholdDeasserted s = .next { s with hold := .free })
    ∧ (∀ (s : State) (l b : Nat), s.hold = .held l b →
      ∃ t, exec .holdBreak s = .next t
        ∧ t = { s with
            now := max s.now b, hold := .broken l
            access := t.access, completion := t.completion, notices := t.notices }
        ∧ (match s.access with
          | some ⟨.read, _, true, .apply⟩ =>
            t.access = none ∧ t.completion = some ⟨false, some 0⟩
              ∧ t.notices = noticesAfter s.notices [.holdBroken l]
          | some ⟨.write _ _, la, true, .apply⟩ =>
            t.access = none ∧ t.completion = some ⟨false, none⟩
              ∧ t.notices = noticesAfter s.notices [.holdBroken l, .writeRefused (lineOf la) .holdBroken]
          | _ =>
            t.access = s.access ∧ t.completion = s.completion
              ∧ t.notices = noticesAfter s.notices [.holdBroken l]))
    ∧ ∀ (s : State) (l b : Nat) (e : ApplyEntry) (rest : List ApplyEntry) (u : Option Upset),
      s.hold = .held l b → s.applyQueue = e :: rest → e.line = l →
      exec .applyFull s = .next s ∧ exec (.applyDelta u) s = .next s

/-! ## The control window -/

/-- A write of a configuration word sets every field the word holds, whatever the values, with ACCEPTED while the lock is
clear, and changes no field with LOCKED while it is set; nothing else changes (R150, R201). -/
def Obligations.ConfigWriteSetsItsWord : Prop :=
  ∀ (s : State) (w : BitVec 2) (v : Word), PortTakes s →
    (s.locked = true → exec (.configWrite w v) s =
        .next { s with result := .locked, access := none, completion := some ⟨true, none⟩ })
      ∧ (s.locked = false → exec (.configWrite w v) s =
        .next { s with
          result := .accepted, access := none, completion := some ⟨true, none⟩
          config :=
            if w = 0 then
              { s.config with
                stationNumber := v.extractLsb' 24 8, ringSpan := v.extractLsb' 16 8
                instanceToken := v.extractLsb' 0 16 }
            else if w = 1 then
              { s.config with returnLimit := v.extractLsb' 16 16, probeInterval := v.extractLsb' 0 16 }
            else if w = 2 then
              { s.config with
                sweepInterval := v.extractLsb' 16 16, holdLimit := v.extractLsb' 8 8
                retryLimit := v.extractLsb' 0 8 }
            else { s.config with windowSize := v.extractLsb' 16 16, deltaEnable := v.extractLsb' 0 8 } })

/-- START by the table of R153: refused with WRONG-STATE, NOT-READY or CONFIG-INVALID and nothing else changed, or
accepted: JOINING, the lock set, a probe due, the probe interval timer started, the sweep timer started at the first START
since RESET with a sweep interval that is not 0, and the Forwarding Unit asked to become active or its switch to
pass-through cancelled (R119, R151, R153, R160). -/
def Obligations.StartIsTakenByTheStationState : Prop :=
  ∀ (s : State) (arg : BitVec 16), PortTakes s → Sparse.Wf LineRecord.reset s.lines →
    let answered (t : State) (r : CommandResult) : State :=
      { t with
        commandWord := 1#8 ++ 0#8 ++ arg, result := r, access := none, completion := some ⟨true, none⟩ }
    (s.station ≠ .offline → exec (.start arg) s = .next (answered s .wrongState))
      ∧ (s.station = .offline → s.clearingShown = true → exec (.start arg) s = .next (answered s .notReady))
      ∧ (s.station = .offline → s.clearingShown = false → s.locked = false →
          ¬ (InRange s.config ∧ NoneBeyondWindow s) → exec (.start arg) s = .next (answered s .configInvalid))
      ∧ (s.station = .offline → s.clearingShown = false →
          (s.locked = true ∨ (InRange s.config ∧ NoneBeyondWindow s)) →
          exec (.start arg) s =
            .next (answered { s with
              station := .joining, locked := true
              probe := { s.probe with due := true, timer := some (s.now + s.config.probeInterval.toNat) }
              sweep :=
                if s.locked = true ∨ s.config.sweepInterval = 0 then s.sweep
                else { s.sweep with timer := some (s.now + s.config.sweepInterval.toNat) }
              switchAsked := !(s.linkMode == .active) } .accepted))

/-- LEAVE in an active state enters OFFLINE with every action of R154; in OFFLINE and FAULT it is refused with WRONG-STATE
and changes nothing. That a switch to active not yet made is cancelled is the model's deduction (log 20), and that a switch
to pass-through which can be made at once is made in the step is too (log 19). -/
def Obligations.LeaveEntersOffline : Prop :=
  ∀ (s : State) (arg : BitVec 16), PortTakes s →
    (s.station.isActive = false → exec (.leave arg) s =
        .next { s with
          commandWord := 2#8 ++ 0#8 ++ arg, result := .wrongState, access := none
          completion := some ⟨true, none⟩ })
      ∧ (s.station.isActive = true → Sparse.Wf LineRecord.reset s.lines → s.SlotsAgree →
        ∃ t, exec (.leave arg) s = .next t
          ∧ DepartFrame { s with
              commandWord := 2#8 ++ 0#8 ++ arg, result := .accepted, access := none
              completion := some ⟨true, none⟩ } t
          ∧ Departs s t .offline ∧ SameBytes s t ∧ t.drainPending = false
          ∧ t.notices = noticesAfter s.notices (if s.drainPending = true then [.drained .incomplete] else []))

/-- DRAIN: refused with WRONG-STATE outside the active states; a pending drain is left as it is; else the drain becomes
pending, or completes at once when the Post List is empty and no UPDATE slot is in use (R194, R195). -/
def Obligations.DrainIsTakenByTheStationState : Prop :=
  ∀ (s : State) (arg : BitVec 16), PortTakes s →
    let answered (t : State) (r : CommandResult) : State :=
      { t with
        commandWord := 3#8 ++ 0#8 ++ arg, result := r, access := none, completion := some ⟨true, none⟩ }
    (s.station.isActive = false → exec (.drain arg) s = .next (answered s .wrongState))
      ∧ (s.station.isActive = true → s.drainPending = true → exec (.drain arg) s = .next (answered s .accepted))
      ∧ (s.station.isActive = true → s.drainPending = false →
          (s.postList = [] ∧ ∀ i, (s.slot i).isFor .update = false) →
          exec (.drain arg) s =
            .next (answered { s with notices := noticesAfter s.notices [.drained .complete] } .accepted))
      ∧ (s.station.isActive = true → s.drainPending = false →
          (s.postList ≠ [] ∨ ∃ i, (s.slot i).isFor .update = true) →
          exec (.drain arg) s = .next (answered { s with drainPending := true } .accepted))

/-- The commands that name a line. WATCH and UNWATCH set and clear the watched mark of a line within the window (R193);
QUERY loads the query record with the line and the six fields of its record (R22); each answers BAD-LINE for a line beyond
the window, where no mark and no query record changes (R1). -/
def Obligations.WatchUnwatchAndQueryNameALine : Prop :=
  (∀ (s : State) (line : BitVec 16), PortTakes s →
    (s.inWindow line.toNat = false →
        exec (.watch line) s = .next { s with
            commandWord := 4#8 ++ 0#8 ++ line, result := .badLine, access := none, completion := some ⟨true, none⟩ }
        ∧ exec (.unwatch line) s = .next { s with
            commandWord := 5#8 ++ 0#8 ++ line, result := .badLine, access := none, completion := some ⟨true, none⟩ })
      ∧ (s.inWindow line.toNat = true →
        (∃ t, exec (.watch line) s = .next t
          ∧ t = { s with
              lines := t.lines, commandWord := 4#8 ++ 0#8 ++ line, result := .accepted, access := none
              completion := some ⟨true, none⟩ }
          ∧ OnlyRecord s t line.toNat { s.lineRec line.toNat with watched := true })
        ∧ ∃ t, exec (.unwatch line) s = .next t
          ∧ t = { s with
              lines := t.lines, commandWord := 5#8 ++ 0#8 ++ line, result := .accepted, access := none
              completion := some ⟨true, none⟩ }
          ∧ OnlyRecord s t line.toNat { s.lineRec line.toNat with watched := false }))
    ∧ ∀ (s : State) (line : BitVec 16), PortTakes s →
    let r := s.lineRec line.toNat
    let answered (t : State) (c : CommandResult) : State :=
      { t with
        commandWord := 6#8 ++ 0#8 ++ line, result := c, access := none, completion := some ⟨true, none⟩ }
    (s.inWindow line.toNat = false → exec (.query line) s = .next (answered s .badLine))
      ∧ (s.inWindow line.toNat = true →
          exec (.query line) s =
            .next (answered { s with
              query :=
                ⟨line.toNat, r.stamp, r.content,
                  (match r.pending with
                    | .idle => .idle
                    | .posted _ => .posted
                    | .inflight _ => .inflight
                    | .inflightPosted _ _ => .inflightPosted),
                  r.applyPending, r.watched, r.listed⟩ } .accepted))

/-- The processor's view of notices and status. INTENABLE sets the interrupt enable off with argument 0 and on with any
other, and NIRQ is then asserted exactly while the enable is on and a notice waits (R178, R187). A read of the status word
returns its fields in their bits and clears the lag flag (R120, R152, R201). A read of notice word 2 returns the head's line
and station, zero where absent, and removes the head; on an empty queue it reads as zero and removes nothing (R192, R202). The
words of the control window hold their fields as the tables of R201 and R202 state, and an offset they do not assign has no
word (R150, R177). -/
def Obligations.IntenableAndTheReadsThatAct : Prop :=
  (∀ (s : State) (arg : BitVec 16), PortTakes s →
    ∃ t, exec (.intenable arg) s = .next t
      ∧ t = { s with
          intEnable := decide (arg ≠ 0), commandWord := 7#8 ++ 0#8 ++ arg, result := .accepted, access := none
          completion := some ⟨true, none⟩ }
      ∧ t.nirqAsserted = (decide (arg ≠ 0) && decide (s.notices ≠ [])))
    ∧ (∀ s : State, PortTakes s →
    ∃ w : Word, exec .statusRead s =
        .next { s with
          sweep := { s.sweep with lag := false }, access := none, completion := some ⟨true, some w⟩ }
      ∧ s.controlWord 6 = some w
      ∧ w.extractLsb' 28 4 =
          (match s.station with | .offline => 0#4 | .joining => 1 | .online => 2 | .isolated => 3 | .fault => 4)
      ∧ w.getLsbD 27 = s.clearingShown ∧ w.getLsbD 26 = s.sweep.lag ∧ w.getLsbD 25 = s.intEnable
      ∧ (w.extractLsb' 0 6).toNat = popcount s.membership ∧ w.extractLsb' 6 19 = 0)
    ∧ (∀ s : State, PortTakes s →
    (s.notices = [] →
        exec .noticeRead s = .next { s with access := none, completion := some ⟨true, some 0⟩ }
          ∧ s.controlWord 12 = some 0)
      ∧ ∀ n rest, s.notices = n :: rest → (∀ l, (noticeFields n).line = some l → l < 65536) →
        ∃ w : Word, exec .noticeRead s =
            .next { s with notices := rest, access := none, completion := some ⟨true, some w⟩ }
          ∧ s.controlWord 12 = some w
          ∧ (w.extractLsb' 16 16).toNat = (noticeFields n).line.getD 0 ∧ w.extractLsb' 8 8 = 0
          ∧ w.extractLsb' 0 8 = (noticeFields n).station.getD 0)
    ∧ ∀ s : State, ConfigurationReads s ∧ CommandReads s ∧ QueryReads s ∧ NoticeOneReads s

/-- The command each write access gives, and the accesses that complete with LERR. Every word written to the command word is
taken at once as the command that its code names and is kept as the word's value, its bits 23 to 16, which hold no field, reading
as zero (the model's reading of R177 and R201: log 13). A code that names no command keeps its value and leaves the result; a
write to a read-only word or with a byte enable deasserted, and any access to an unassigned word, have no effect; a read drives
zero (R172, R173, R177, R178, R201). -/
def Obligations.RejectedAccessesCompleteWithLerr : Prop :=
  WritesGiveCommands ∧ ∀ (s : State), PortTakes s →
    (∀ (v : Word) (h : Bool), ∃ t, exec (writeCommand 32772 15 v h) s = .next t
        ∧ t.commandWord = v.extractLsb' 24 8 ++ 0#8 ++ v.extractLsb' 0 16)
      ∧ (∀ v : Word, ((v >>> 24).toNat = 0 ∨ 8 ≤ (v >>> 24).toNat) → exec (.unknownCommand v) s =
        .next { s with
          commandWord := v.extractLsb' 24 8 ++ 0#8 ++ v.extractLsb' 0 16, access := none
          completion := some ⟨false, none⟩ })
      ∧ (∀ (o : BitVec 6) (be : BitVec 4) (v : Word),
          ((5 ≤ o.toNat ∧ o.toNat ≤ 12) ∨ (o.toNat ≤ 12 ∧ be ≠ 15)) → exec (.readOnlyWrite o be v) s =
            .next { s with access := none, completion := some ⟨false, none⟩ })
      ∧ ∀ (la : BitVec 16) (w : Bool), 32781 ≤ la.toNat → exec (.unassignedAccess la w) s =
          .next { s with
            access := none, completion := some ⟨false, if w = true then none else some 0⟩ }

/-! ## Reception and carrier -/

/-- A START begins a frame in reception at a station that receives, and a START within a frame drops it and begins the
next; IDLE, an invalid symbol or a 59th byte drops it; none of these changes anything else but the carrier that a symbol
regains. Regaining carrier sets the indication and moves no state (R131, R132, R157). Under RESET a symbol regains nothing,
which is the model's choice (log 36). -/
def Obligations.ReceptionBeginsAndBreaksOff : Prop :=
  (∀ s : State, s.receives = true → s.resetAsserted = false →
    exec .frameInReceptionBegins s = .next { s with receiving := true, carrier := true }
      ∧ (s.receiving = true →
          exec (.receptionBrokenOff .start) s = .next s
          ∧ exec (.receptionBrokenOff .idle) s = .next { s with receiving := false }
          ∧ exec (.receptionBrokenOff .invalid) s = .next { s with receiving := false }
          ∧ exec (.receptionBrokenOff .byte59) s = .next { s with receiving := false }))
    ∧ ∀ s : State,
      (s.resetAsserted = false → exec .carrierRegained s = .next { s with carrier := true })
        ∧ (s.resetAsserted = true →
          exec .carrierRegained s = .next s ∧ exec .frameInReceptionBegins s = .next s)

/-- The loss of carrier drops the frame in reception; JOINING and ONLINE enter ISOLATED, ONLINE with RING-DOWN CARRIER;
the other states see no effect (R131, R132, R155, R157). So a probe in reception at the loss is no return that ends ISOLATED
after it, which is the model's reading of R170 beside R131 (log 37). A drain with nothing left to wait for completes (R195);
that DRAINED COMPLETE comes behind RING-DOWN is the model's reading (log 11). -/
def Obligations.CarrierLossEntersIsolated : Prop :=
  ∀ s : State, s.carrier = true →
    ((s.station = .offline ∨ s.station = .isolated ∨ s.station = .fault) →
        exec .carrierLost s = .next { s with carrier := false, receiving := false })
      ∧ ((s.station = .joining ∨ s.station = .online) → s.SlotsAgree →
        ∃ t, exec .carrierLost s = .next t
          ∧ t = { s with
              carrier := false, receiving := false
              slots := t.slots, lines := t.lines, postList := t.postList, place := t.place, build := t.build
              station := t.station, drainPending := t.drainPending, notices := t.notices }
          ∧ EntersIsolated s t .carrier ∧ t.place = placeIsolated s ∧ t.build = none ∧ SameBytes s t)

/-- A whole frame that fails its check, is malformed, or is a peer's with budget 0 goes no further: only the frame in
reception ends (R133, R134, R135). A frame that names a line beyond the window, a REQUEST that arrives ANSWERED, a PROBE and
a frame of unknown kind are forwarded and change no record and no queue but the Bypass FIFO; a PROBE's copy leaves with this
station's position set (R1, R23, R108, R135, R165). -/
def Obligations.FramesThatAreDroppedOrForwardedAlone : Prop :=
  (∀ (s : State) (f : List Byte) (sent : Nat), s.receives = true → s.receiving = true → f.length ≤ 58 →
      (Frame.checkGood f = false ∨ Frame.malformed f = true
        ∨ (Frame.origin f ≠ s.config.stationNumber ∧ Frame.budget f = 0)) →
      exec (.frameReceivedWhole f sent) s = .next { s with receiving := false })
    ∧ ∀ (s : State) (f : List Byte) (sent : Nat), ToActOn s f →
      (Frame.kind f = .unknown ∨ Frame.kind f = .probe
        ∨ (Frame.kind f = .request ∧ Frame.answered f = true) ∨ s.inWindow (Frame.line f) = false) →
      ∃ t, exec (.frameReceivedWhole f sent) s = .next t
        ∧ t = { s with receiving := false, fifo := t.fifo, sending := t.sending }
        ∧ ForwardsCopy s t f
            ⟨false, false, if Frame.kind f = .probe then some s.config.stationNumber else none⟩ sent

/-! ## The decision on updates -/

/-- An update older than the line's current stamp, and one at the current stamp of a line that is VALID or covered, change no
record, queue no apply and give no notice; the copy leaves with MISSED as it arrived (R25, R26). -/
def Obligations.OlderOrDuplicateUpdateIsDiscarded : Prop :=
  ∀ (s : State) (f : List Byte) (sent : Nat) (k : UpdateKind), UpdateFor s f k →
    ((s.lineRec (Frame.line f)).stamp.newer (Frame.stamp f) = true
      ∨ (Frame.stamp f = (s.lineRec (Frame.line f)).stamp
        ∧ ((s.lineRec (Frame.line f)).content = .valid
          ∨ ∃ e ∈ s.applyQueue,
              e.line = Frame.line f ∧ e.kind = .full ∧ e.stamp = (s.lineRec (Frame.line f)).stamp))) →
    ∃ t, exec (.frameReceivedWhole f sent) s = .next t
      ∧ t = { s with receiving := false, fifo := t.fifo, sending := t.sending }
      ∧ ForwardsCopy s t f ⟨false, false, none⟩ sent

/-- A FULL at the current stamp of a line that is STALE or SUSPECT and not covered queues a HEAL entry and sets apply
pending, MISSED not set; with the Apply Queue full it changes nothing and sets MISSED. A DELTA there changes nothing and
sets MISSED (R27, R28, R32). That the heal refused for a full queue does not list the line is the model's reading of R32 beside
R124 (log 39). -/
def Obligations.EqualStampOnAnUntrustedLine : Prop :=
  ∀ (s : State) (f : List Byte) (sent : Nat) (k : UpdateKind), UpdateFor s f k →
    Frame.stamp f = (s.lineRec (Frame.line f)).stamp → (s.lineRec (Frame.line f)).content ≠ .valid →
    (∀ e ∈ s.applyQueue,
      ¬ (e.line = Frame.line f ∧ e.kind = .full ∧ e.stamp = (s.lineRec (Frame.line f)).stamp)) →
    ∃ t, exec (.frameReceivedWhole f sent) s = .next t
      ∧ (if k = .full ∧ s.applyQueue.length < 8 then
          t = { s with
              receiving := false, fifo := t.fifo, sending := t.sending, lines := t.lines
              applyQueue := s.applyQueue
                ++ [⟨Frame.line f, .heal, .full, Frame.stamp f, Mask.all, Frame.fullData f⟩] }
            ∧ OnlyRecord s t (Frame.line f) { s.lineRec (Frame.line f) with applyPending := true }
            ∧ ForwardsCopy s t f ⟨false, false, none⟩ sent
        else
          t = { s with receiving := false, fifo := t.fifo, sending := t.sending }
            ∧ ForwardsCopy s t f ⟨true, false, none⟩ sent)

/-- A newer FULL, and a newer DELTA whose base stamp is the current stamp of a VALID line, raise the current stamp, queue
a RAISE entry and set apply pending; the station's own work on the line is withdrawn or marked superseded, with SUPERSEDED;
content and MISSED stay as they were (R29, R30, R42 to R44). That DRAINED COMPLETE comes behind SUPERSEDED is the model's
reading (log 11). -/
def Obligations.NewerUpdateRaisesAndQueues : Prop :=
  ∀ (s : State) (f : List Byte) (sent : Nat) (k : UpdateKind), UpdateFor s f k →
    (Frame.stamp f).newer (s.lineRec (Frame.line f)).stamp = true → s.applyQueue.length < 8 →
    (k = .full ∨ ((s.lineRec (Frame.line f)).content = .valid
      ∧ Frame.baseStamp f = (s.lineRec (Frame.line f)).stamp)) →
    ∃ t, exec (.frameReceivedWhole f sent) s = .next t
      ∧ t = { s with
          receiving := false, fifo := t.fifo, sending := t.sending, lines := t.lines
          postList := s.postList.filter (· != Frame.line f)
          applyQueue := s.applyQueue
            ++ [⟨Frame.line f, .raise, k, Frame.stamp f, frameMask f k, frameData f k⟩]
          notices := t.notices, drainPending := t.drainPending }
      ∧ OnlyRecord s t (Frame.line f)
          { s.lineRec (Frame.line f) with
            stamp := Frame.stamp f, applyPending := true
            pending := (s.lineRec (Frame.line f)).pending.afterRaise }
      ∧ GivesAndDrains s t
          (if (s.lineRec (Frame.line f)).pending.losesToRaise = true then
            [.superseded (Frame.line f) (Frame.stamp f).writer] else [])
      ∧ ForwardsCopy s t f ⟨false, false, none⟩ sent ∧ SameBytes s t

/-- A newer update whose bytes cannot be taken, for want of an Apply Queue entry or because a DELTA does not fit the line,
raises the current stamp, turns the line STALE, lists it and sets MISSED; own work is withdrawn or superseded, and a watched
line gives FOREIGN MISSED. The order of SUPERSEDED and FOREIGN is open (R31, R32, R42 to R44, R46, R47, R190; log 10), and
that DRAINED COMPLETE comes behind both is the model's reading (log 11). -/
def Obligations.NewerUpdateThatIsMissedTurnsStale : Prop :=
  ∀ (s : State) (f : List Byte) (sent : Nat) (k : UpdateKind), UpdateFor s f k →
    (Frame.stamp f).newer (s.lineRec (Frame.line f)).stamp = true →
    (8 ≤ s.applyQueue.length ∨ (k = .delta ∧ ((s.lineRec (Frame.line f)).content ≠ .valid
      ∨ Frame.baseStamp f ≠ (s.lineRec (Frame.line f)).stamp))) →
    ∃ t ns, exec (.frameReceivedWhole f sent) s = .next t
      ∧ t = { s with
          receiving := false, fifo := t.fifo, sending := t.sending, lines := t.lines, freeCount := t.freeCount
          postList := s.postList.filter (· != Frame.line f)
          repairList :=
            if (s.lineRec (Frame.line f)).listed = true ∨ 32 ≤ s.repairList.length then s.repairList
            else s.repairList ++ [⟨Frame.line f, s.now⟩]
          notices := t.notices, drainPending := t.drainPending }
      ∧ OnlyRecord s t (Frame.line f)
          { s.lineRec (Frame.line f) with
            stamp := Frame.stamp f, content := .stale
            pending := (s.lineRec (Frame.line f)).pending.afterRaise
            listed := (s.lineRec (Frame.line f)).listed || decide (s.repairList.length < 32) }
      ∧ ns.Perm
          ((if (s.lineRec (Frame.line f)).pending.losesToRaise = true then
              [Notice.superseded (Frame.line f) (Frame.stamp f).writer] else [])
            ++ if (s.lineRec (Frame.line f)).watched = true then
              [Notice.foreign (Frame.line f) (Frame.stamp f).writer .missed] else [])
      ∧ GivesAndDrains s t ns ∧ ForwardsCopy s t f ⟨true, false, none⟩ sent ∧ SameBytes s t

/-! ## REQUESTs -/

/-- A REQUEST is taken, and its copy leaves ANSWERED, exactly when the station is ONLINE, the line is VALID with no apply
pending and IDLE or INFLIGHT, its stamp is equal to or newer than the requested one, and the Answer Queue holds the line or
has room; the line joins the queue at the tail once. The record is not changed (R108 to R111). -/
def Obligations.RequestIsTakenOrPassedOn : Prop :=
  ∀ (s : State) (f : List Byte) (sent : Nat), ToActOn s f → Frame.kind f = .request → Frame.answered f = false →
    s.inWindow (Frame.line f) = true →
    ∃ t, exec (.frameReceivedWhole f sent) s = .next t
      ∧ (if s.station = .online ∧ (s.lineRec (Frame.line f)).content = .valid
            ∧ (s.lineRec (Frame.line f)).applyPending = false
            ∧ (s.lineRec (Frame.line f)).pending.post = none
            ∧ (Frame.stamp f).newer (s.lineRec (Frame.line f)).stamp = false
            ∧ (Frame.line f ∈ s.answerQueue ∨ s.answerQueue.length < 4) then
          t = { s with
              receiving := false, fifo := t.fifo, sending := t.sending
              answerQueue :=
                if Frame.line f ∈ s.answerQueue then s.answerQueue else s.answerQueue ++ [Frame.line f] }
            ∧ ForwardsCopy s t f ⟨false, true, none⟩ sent
        else
          t = { s with receiving := false, fifo := t.fifo, sending := t.sending }
            ∧ ForwardsCopy s t f ⟨false, false, none⟩ sent)

/-! ## Own frames that come home -/

/-- A stripped frame that is no matched return of its slot, a stripped UNTRACKED FULL, a stripped frame of unknown kind and a
late probe with the station's own token have no other effect (R77, R78, R79, R162). An UNTRACKED DELTA, which no station sends, is taken so too (log 22). -/
def Obligations.LateReturnHasNoEffect : Prop :=
  ∀ (s : State) (f : List Byte) (sent : Nat), ToStrip s f →
    ((Frame.kind f = .unknown)
      ∨ ((Frame.kind f = .full ∨ Frame.kind f = .delta)
          ∧ (Frame.untracked f = true ∨ ∀ u, ¬ MatchedReturn s f .update u))
      ∨ (Frame.kind f = .request ∧ ∀ u, ¬ MatchedReturn s f .repair u)
      ∨ (Frame.kind f = .probe ∧ Frame.token f = s.config.instanceToken
          ∧ ∀ p d, s.probe.outstanding = some p → p.deadline = some d → p.number = Frame.tag f → d < s.now)) →
    exec (.frameReceivedWhole f sent) s = .next { s with receiving := false }

/-- The matched return of a superseded write, or of a write with MISSED clear, frees the slot: an INFLIGHT line becomes
IDLE, an INFLIGHT_POSTED line POSTED with its post unchanged; CONFIRMED is given for a watched line that was not superseded
(R82, R83). That DRAINED COMPLETE comes behind CONFIRMED is the model's reading (log 11). -/
def Obligations.ReturnThatEndsTheFlight : Prop :=
  ∀ (s : State) (f : List Byte) (sent : Nat) (u : SlotUse) (x : Flight), ToStrip s f →
    (Frame.kind f = .full ∨ Frame.kind f = .delta) → Frame.untracked f = false → MatchedReturn s f .update u →
    (s.lineRec u.line).pending.flight = some x → x.slot = Frame.slot f →
    (x.superseded = true ∨ Frame.missed f = false) →
    ∃ t, exec (.frameReceivedWhole f sent) s = .next t
      ∧ t = { s with
          receiving := false, slots := t.slots, lines := t.lines, notices := t.notices
          drainPending := t.drainPending }
      ∧ OnlySlot s t (Frame.slot f) { s.slot (Frame.slot f) with use := none }
      ∧ OnlyRecord s t u.line
          { s.lineRec u.line with
            pending := match (s.lineRec u.line).pending.post with | none => .idle | some p => .posted p }
      ∧ GivesAndDrains s t
          (if x.superseded = false ∧ (s.lineRec u.line).watched = true then [.confirmed u.line] else [])

/-- The matched return with MISSED set of a write that is not superseded: on a VALID INFLIGHT line a mend becomes due below
the retry limit, and UNDELIVERED MISSED is given at it; an untrusted INFLIGHT line becomes IDLE without notice; an
INFLIGHT_POSTED line becomes POSTED with must-full yes (R81, R84, R85). That DRAINED COMPLETE comes behind UNDELIVERED is
the model's reading (log 11). -/
def Obligations.MissedReturnMendsOrGivesUp : Prop :=
  ∀ (s : State) (f : List Byte) (sent : Nat) (u : SlotUse) (x : Flight), ToStrip s f →
    (Frame.kind f = .full ∨ Frame.kind f = .delta) → Frame.untracked f = false → MatchedReturn s f .update u →
    (s.lineRec u.line).pending.flight = some x → x.slot = Frame.slot f → x.superseded = false →
    Frame.missed f = true →
    ∃ t, exec (.frameReceivedWhole f sent) s = .next t
      ∧ (match (s.lineRec u.line).pending.post with
        | some p =>
          t = { s with
              receiving := false, slots := t.slots, lines := t.lines, notices := t.notices
              drainPending := t.drainPending }
            ∧ OnlySlot s t (Frame.slot f) { s.slot (Frame.slot f) with use := none }
            ∧ OnlyRecord s t u.line { s.lineRec u.line with pending := .posted { p with mustFull := true } }
            ∧ GivesAndDrains s t []
        | none =>
          if (s.lineRec u.line).content = .valid ∧ u.attempts < s.config.retryLimit.toNat then
            t = { s with receiving := false, slots := t.slots, dueCount := s.dueCount + 1 }
              ∧ OnlySlot s t (Frame.slot f)
                  { s.slot (Frame.slot f) with
                    use := some { u with
                      attempts := u.attempts + 1, due := some ⟨.mend, s.dueCount⟩, deadline := none } }
          else
            t = { s with
                receiving := false, slots := t.slots, lines := t.lines, notices := t.notices
                drainPending := t.drainPending }
              ∧ OnlySlot s t (Frame.slot f) { s.slot (Frame.slot f) with use := none }
              ∧ OnlyRecord s t u.line { s.lineRec u.line with pending := .idle }
              ∧ GivesAndDrains s t
                  (if (s.lineRec u.line).content = .valid then [.undelivered u.line .missed] else []))

/-- The matched return of a REQUEST and the deadline of its slot: with ANSWERED set the slot is left waiting; with ANSWERED
clear, and at the deadline whatever came before, a retry becomes due below the retry limit, and at it the slot is freed, the
line leaves the Repair List and UNREPAIRED is given (R90, R91, R92). A return after one matched with ANSWERED set is matched
again, by the deadline: the model's choice (log 35). -/
def Obligations.UnansweredRequestRetriesOrGivesUp : Prop :=
  (∀ (s : State) (f : List Byte) (sent : Nat) (u : SlotUse), ToStrip s f → Frame.kind f = .request →
      MatchedReturn s f .repair u →
      (Frame.answered f = true → exec (.frameReceivedWhole f sent) s = .next { s with receiving := false })
        ∧ (Frame.answered f = false →
          ∃ t, exec (.frameReceivedWhole f sent) s = .next t
            ∧ RetriesOrGivesUp { s with receiving := false } t (Frame.slot f) u))
    ∧ ∀ (s : State) (i : SlotNo) (u : SlotUse) (d : Nat), (s.slot i).use = some u → u.purpose = .repair →
      u.deadline = some d →
      ∃ t, exec (.repairDeadline i) s = .next t ∧ RetriesOrGivesUp { s with now := max s.now d } t i u

/-- A probe of this station returning in time sets the membership map, clears the loss count and the outstanding probe,
enters ONLINE from JOINING or ISOLATED with RING-UP, and gives MEMBERSHIP with the member count when the map has changed
(R162, R163). -/
def Obligations.ProbeReturnInTime : Prop :=
  ∀ (s : State) (f : List Byte) (sent : Nat) (p : OutstandingProbe) (d : Nat), ToStrip s f →
    Frame.kind f = .probe → Frame.token f = s.config.instanceToken →
    s.probe.outstanding = some p → p.number = Frame.tag f → p.deadline = some d → s.now ≤ d →
    exec (.frameReceivedWhole f sent) s =
      .next { s with
        receiving := false
        membership := Frame.presence f
        probe := { s.probe with losses := 0, outstanding := none }
        station := if s.station = .joining ∨ s.station = .isolated then .online else s.station
        notices := noticesAfter s.notices
          ((if s.station = .joining ∨ s.station = .isolated then [.ringUp] else [])
            ++ if Frame.presence f ≠ s.membership then [.membership (popcount (Frame.presence f))] else []) }

/-- A stripped probe with a foreign instance token enters FAULT with the actions of LEAVE, IDENTITY-CLASH queued ahead of
DRAINED INCOMPLETE (R156, R168); the switches are taken as at LEAVE (log 19, log 20). -/
def Obligations.IdentityClashEntersFault : Prop :=
  ∀ (s : State) (f : List Byte) (sent : Nat), ToStrip s f → Frame.kind f = .probe →
    Frame.token f ≠ s.config.instanceToken → Sparse.Wf LineRecord.reset s.lines → s.SlotsAgree →
    ∃ t, exec (.frameReceivedWhole f sent) s = .next t ∧ DepartFrame s t ∧ Departs s t .fault ∧ SameBytes s t
      ∧ t.drainPending = false
      ∧ t.notices = noticesAfter s.notices
          (.identityClash :: if s.drainPending = true then [.drained .incomplete] else [])

/-! ## Ring-out -/

/-- Ring-out. While a frame is being sent it carries START, the frame's bytes in order and END, and IDLE while none is (R130).
Between frames the output arbiter sends the head of the Bypass FIFO, else begins the insertion of the own
frame that waits, else sends IDLE; the forwarded frame whose END has been sent leaves the FIFO (R143, R144). That a choice
taken while a forwarded frame is being sent comes after its END is the model's reading (log 21). The switches of the
Forwarding Unit: to active after START, sending IDLE, a START that breaks off the frame repeated beginning the first frame in
reception (R137); to pass-through after LEAVE or FAULT at the END of the frame being sent, ring-out then carrying IDLE
(R138); and the first START after it, from which ring-out repeats ring-in (R136, R138). -/
def Obligations.OutputArbiterAndSwitches : Prop :=
  (∀ s : State, s.linkMode = .active → s.switchAsked = false → s.sending ≠ .own →
    ∃ q, q = (match s.sending with | .forwarded _ => s.fifo.tail | .idle | .own => s.fifo)
      ∧ exec .outputArbiterChoice s =
        .next { s with
          fifo := q
          sending := if q ≠ [] then .forwarded 0 else if s.place.isSome = true then .own else .idle })
    ∧ (∀ s : State, s.linkMode = .active →
      (∀ f rest n, s.sending = .forwarded n → s.fifo = f :: rest → s.ringOut = .sends (.start :: (f.map .data ++ [.finish])))
        ∧ (∀ f, s.sending = .own → s.place = some f → s.ringOut = .sends (.start :: (f.map .data ++ [.finish])))
        ∧ (s.sending = .idle → s.ringOut = .sends [.idle]))
    ∧ ∀ s : State,
    (∀ b, s.linkMode ≠ .active → s.switchAsked = true →
        ∃ t, exec (.switchToActive b) s = .next t
          ∧ t = { s with
              linkMode := .active, switchAsked := false, sending := .idle
              receiving := decide (b = .brokenByStart), carrier := s.carrier || decide (b = .brokenByStart) }
          ∧ t.ringOut = .idle)
      ∧ (s.linkMode = .active → s.switchAsked = true → s.sending ≠ .own →
        ∃ t, exec .switchToPassThrough s = .next t
          ∧ t = { s with
              linkMode := .idleUntilStart, switchAsked := false, sending := .idle
              fifo := match s.sending with | .forwarded _ => s.fifo.tail | .idle | .own => s.fifo }
          ∧ t.ringOut = .idle)
      ∧ (s.linkMode = .idleUntilStart →
        ∃ t, exec .passThroughRepeatBegins s = .next t
          ∧ t = { s with linkMode := .repeating, carrier := true } ∧ t.ringOut = .repeatsRingIn)

/-- The END of an own insertion empties the place. The report of a tracked frame sets the slot's deadline to now plus the
return limit when the slot is in use, the generation is that of its latest transmission, nothing is due and no deadline is
present; the report of the outstanding probe sets its deadline while it is absent and the station is active; no other
report sets anything (R80, R145, R161). -/
def Obligations.InsertionCompleteReports : Prop :=
  ∀ (s : State) (f : List Byte), s.sending = .own → s.place = some f →
    ∃ t, exec .insertionComplete s = .next t
      ∧ t = { s with sending := .idle, place := none, slots := t.slots, probe := t.probe }
      ∧ (∀ u, (Frame.kind f = .request ∨ ((Frame.kind f = .full ∨ Frame.kind f = .delta) ∧ Frame.untracked f = false)) →
          (s.slot (Frame.slot f)).use = some u → Frame.generation f = (s.slot (Frame.slot f)).generation - 1 →
          u.due = none → u.deadline = none →
          OnlySlot s t (Frame.slot f)
            { s.slot (Frame.slot f) with
              use := some { u with deadline := some (s.now + s.config.returnLimit.toNat) } })
      ∧ ((Frame.kind f = .unknown ∨ Frame.kind f = .probe
            ∨ ((Frame.kind f = .full ∨ Frame.kind f = .delta) ∧ Frame.untracked f = true)
            ∨ (s.slot (Frame.slot f)).use = none
            ∨ (∃ u, (s.slot (Frame.slot f)).use = some u
                ∧ (Frame.generation f ≠ (s.slot (Frame.slot f)).generation - 1 ∨ u.due ≠ none ∨ u.deadline ≠ none))) →
          t.slots = s.slots)
      ∧ (∀ p, Frame.kind f = .probe → s.probe.outstanding = some p →
          s.station.isActive = true → p.number = Frame.tag f → p.deadline = none →
          t.probe = { s.probe with
            outstanding := some { p with deadline := some (s.now + s.config.returnLimit.toNat) } })
      ∧ ((Frame.kind f ≠ .probe ∨ s.probe.outstanding = none ∨ s.station.isActive = false
            ∨ ∃ p, s.probe.outstanding = some p ∧ (p.number ≠ Frame.tag f ∨ p.deadline ≠ none)) →
          t.probe = s.probe)


/-! ## The Apply Unit -/

/-- The claim of a FULL entry replaces the line's bytes with a fresh check code, unverified. At the line's current stamp the
content becomes VALID and a line so healed leaves the Repair List with its REPAIR slot; else the content stays. Apply pending
follows the entries left, FOREIGN is given for a watched line that is VALID after it, and a local access that waited goes on
(R35, R37, R41, R47, R116, R176). -/
def Obligations.ApplyFullReplacesTheLine : Prop :=
  ∀ (s : State) (e : ApplyEntry) (rest : List ApplyEntry), s.grantsApply = true →
    s.applyQueue = e :: rest → e.kind = .full → e.data.length = 32 →
    let r := s.lineRec e.line
    let content := if r.stamp = e.stamp then Content.valid else r.content
    let heals : Bool := decide (r.stamp = e.stamp ∧ r.content ≠ .valid)
    ∃ t, exec .applyFull s = .next t
      ∧ t = { s with
          mem := t.mem, codes := t.codes, lines := t.lines, slots := t.slots, applyQueue := rest
          repairList := if heals then s.repairList.filter (fun x => x.line != e.line) else s.repairList
          notices := noticesAfter s.notices (appliedNotice r content e)
          access := accessGoesOn s t }
      ∧ StoresLine s t e.line (fun p => e.data.getD p 0)
      ∧ OnlyRecord s t e.line
          { r with
            content := content
            applyPending := rest.any fun x => x.line == e.line
            listed := r.listed && !heals }
      ∧ ∀ i, t.slot i =
          if heals = true ∧ (s.slot i).names .repair e.line = true then { s.slot i with use := none } else s.slot i

/-- The claim of a DELTA entry. On a line no longer VALID it writes and verifies nothing and gives no notice (R40). On a VALID
line whose check fails it writes nothing and turns the line SUSPECT, listed, with no FOREIGN (R39). On a VALID line whose
check is good it merges the bytes at the positions of its mask, with a fresh check code, and gives FOREIGN when watched
(R38, R47). Apply pending follows the entries left, and a local access that waited goes on (R35, R176). That DRAINED COMPLETE
comes behind LOCAL-LOST is the model's reading (log 11). -/
def Obligations.ApplyDeltaMergesOrFails : Prop :=
  ∀ (s : State) (e : ApplyEntry) (rest : List ApplyEntry) (u : Option Upset), s.grantsApply = true →
    s.applyQueue = e :: rest → e.kind = .delta →
    let r := s.lineRec e.line
    let v := s.strike e.line u
    let waits := rest.any fun x => x.line == e.line
    (r.content ≠ .valid →
        ∃ t, exec (.applyDelta u) s = .next t
          ∧ t = { s with lines := t.lines, applyQueue := rest, access := accessGoesOn s t }
          ∧ OnlyRecord s t e.line { r with applyPending := waits })
      ∧ (r.content = .valid → v.checkGood e.line = false →
        ∃ t, exec (.applyDelta u) s = .next t
          ∧ t = { v with
              lines := t.lines, applyQueue := rest, repairList := t.repairList, postList := t.postList
              notices := t.notices, drainPending := t.drainPending, access := accessGoesOn s t }
          ∧ OnlyRecord s t e.line { failedRecord s e.line with applyPending := waits }
          ∧ FailureLists s t e.line ∧ GivesAndDrains s t (lostNotice s e.line) ∧ SameBytes v t)
      ∧ (r.content = .valid → v.checkGood e.line = true → e.data.length = popcount e.mask →
        ∃ t, exec (.applyDelta u) s = .next t
          ∧ t = { v with
              mem := t.mem, codes := t.codes, lines := t.lines, applyQueue := rest
              notices := noticesAfter s.notices (appliedNotice r .valid e)
              access := accessGoesOn s t }
          ∧ StoresLine v t e.line (fun p =>
              if Mask.has e.mask p = true then e.data.getD ((List.range p).countP fun q => Mask.has e.mask q) 0
              else v.byteAt (32 * e.line + p))
          ∧ OnlyRecord s t e.line { r with applyPending := waits })

/-! ## The Framer -/

/-- A probe due is served before every other source in JOINING, ONLINE and ISOLATED: the PROBE carries the next number, the
instance token and this station's position alone and is handed over; it becomes the outstanding probe with no deadline. A
previous outstanding probe that still had a deadline is counted lost in the step, and the third loss in ONLINE enters
ISOLATED (R58, R75, R155, R161, R164). That DRAINED COMPLETE comes behind RING-DOWN PROBES is the model's reading (log 11). -/
def Obligations.ProbeIsBuiltFirst : Prop :=
  ∀ s : State, s.place = none → s.build = none → s.probe.due = true → s.station.isActive = true →
    let lost := (s.probe.outstanding.bind OutstandingProbe.deadline).isSome
    let sent : List Byte :=
      Frame.probe s.config.ringSpan s.config.stationNumber s.probe.next s.config.instanceToken
        (1#32 <<< s.config.stationNumber.toNat)
    let asked : ProbeRecord :=
      { s.probe with due := false, next := s.probe.next + 1, outstanding := some ⟨s.probe.next, none⟩ }
    (lost = false → exec .framerChoice s = .next { s with place := some sent, probe := asked })
      ∧ (lost = true → ¬ (s.station = .online ∧ 2 ≤ s.probe.losses) →
          exec .framerChoice s =
            .next { s with place := some sent, probe := { asked with losses := min 3 (s.probe.losses + 1) } })
      ∧ (lost = true → s.station = .online → 2 ≤ s.probe.losses → s.SlotsAgree →
        ∃ t, exec .framerChoice s = .next t
          ∧ t = { s with
              place := some sent, probe := { asked with losses := 3 }, slots := t.slots, lines := t.lines
              postList := t.postList, station := t.station, drainPending := t.drainPending, notices := t.notices }
          ∧ EntersIsolated s t .probes ∧ SameBytes s t)

/-- With no probe due the Framer chooses by precedence: the transmission that became due first, the Answer Queue's head, then,
past the repair request source, the oldest POSTED line. A choice stands until its fetch is granted, and while it stands or an
own frame is in the place there is no other choice. Outside ONLINE, and with no source ready, nothing is chosen (R56 to R59). -/
def Obligations.FramerChoosesByPrecedence : Prop :=
  (∀ s : State, s.place = none → s.build = none → s.station ≠ .online →
      (s.probe.due = false ∨ s.station.isActive = false) → exec .framerChoice s = .next s)
    ∧ (∀ s : State, (s.place ≠ none ∨ s.build ≠ none) → exec .framerChoice s = .next s)
    ∧ ∀ s : State, ChoosesPastProbe s →
      (∀ i u d, FirstDue s i u d → (d.kind = .mend ∨ d.kind = .resend) →
          exec .framerChoice s = .next { s with build := some (.mendResend i) })
        ∧ (∀ i u d, FirstDue s i u d → d.kind = .replacement →
          exec .framerChoice s = .next { s with build := some (.replacement i) })
        ∧ (NoneDue s → s.answerQueue ≠ [] → exec .framerChoice s = .next { s with build := some .answer })
        ∧ (∀ l, NoneDue s → s.answerQueue = [] → NoRequestReady s → PostReady s l →
          exec .framerChoice s = .next { s with build := some (.post l) })
        ∧ (NoneDue s → s.answerQueue = [] → NoRequestReady s → NoPostReady s → s.sweep.due = false →
          exec .framerChoice s = .next s)

/-- A REQUEST is built in the choice and handed over. The first one takes the lowest free slot as a REPAIR slot with attempt
count 0 and asks for the line's current stamp; a retry asks for the current stamp as it stands, and a stamp newer than the
slot's starts the attempt count again. The slot has nothing due, no deadline, and its generation advanced (R61 to R64, R72,
R105). -/
def Obligations.RequestsAreBuiltInTheChoice : Prop :=
  ∀ s : State, ChoosesPastProbe s →
    (∀ e i, NoneDue s → s.answerQueue = [] → RequestReady s e i →
      ∃ t, exec .framerChoice s = .next t
        ∧ t = { s with slots := t.slots, place := some (ownRequest s i e.line (s.lineRec e.line).stamp) }
        ∧ OnlySlot s t i
            ⟨(s.slot i).generation + 1, some ⟨.repair, e.line, (s.lineRec e.line).stamp, 0, none, none⟩⟩)
      ∧ (∀ i u d, FirstDue s i u d → d.kind = .retry →
        ∃ t, exec .framerChoice s = .next t
          ∧ t = { s with slots := t.slots, place := some (ownRequest s i u.line (s.lineRec u.line).stamp) }
          ∧ OnlySlot s t i
              ⟨(s.slot i).generation + 1,
                some { u with
                  stamp := (s.lineRec u.line).stamp
                  attempts := if (s.lineRec u.line).stamp.newer u.stamp = true then 0 else u.attempts
                  due := none, deadline := none }⟩)

/-- The granted fetch for a post. A failing check withdraws the post and abandons the build; a line no longer POSTED abandons
it; else the post leaves as a DELTA when delta enable is yes, the mask holds at most 20 positions and must-full is no, and as
a FULL otherwise, on the lowest free slot, and the line becomes INFLIGHT (R61, R62, R65, R66, R67). That DRAINED COMPLETE
comes behind LOCAL-LOST is the model's reading (log 11). -/
def Obligations.PostIsFramedOnASlot : Prop :=
  ∀ (s : State) (l : Nat) (u : Option Upset), FetchGranted s (.post l) →
    let v := s.strike l u
    let r := s.lineRec l
    (v.checkGood l = false →
        ∃ t, exec (.postBuild u) s = .next t
          ∧ t = { v with
              lines := t.lines, repairList := t.repairList, postList := t.postList, build := none
              notices := t.notices, drainPending := t.drainPending }
          ∧ FailsCheck s t l ∧ GivesAndDrains s t (lostNotice s l) ∧ SameBytes v t)
      ∧ (v.checkGood l = true → (∀ p, r.pending ≠ .posted p) → exec (.postBuild u) s = .next { v with build := none })
      ∧ (∀ p i, v.checkGood l = true → r.pending = .posted p → LowestFree s i → s.updateSlots < 14 →
        ∃ t f, exec (.postBuild u) s = .next t
          ∧ t = { v with
              slots := t.slots, lines := t.lines, postList := s.postList.filter (· != l)
              place := some f, build := none }
          ∧ OnlySlot s t i ⟨(s.slot i).generation + 1, some ⟨.update, l, r.stamp, 0, none, none⟩⟩
          ∧ OnlyRecord s t l { r with pending := .inflight ⟨i, false⟩ }
          ∧ f =
            if s.config.deltaEnable = 1 ∧ popcount p.mask ≤ 20 ∧ p.mustFull = false then
              Frame.delta s.config.ringSpan s.config.stationNumber (Frame.slotTag i (s.slot i).generation) l r.stamp
                p.base p.mask
                (((List.range 32).filter fun q => Mask.has p.mask q).map fun q => v.byteAt (32 * l + q))
            else ownFull v false (Frame.slotTag i (s.slot i).generation) l r.stamp)

/-- The granted fetch for a due transmission whose line is fit. A mend or resend is a FULL at the slot's stamp, with the record
unchanged. A replacement carries the waiting post as a FULL at the current stamp: the line becomes INFLIGHT and leaves the
Post List, and the slot takes the current stamp. The slot has nothing due, no deadline, and its generation advanced (R62,
R63, R68, R69). -/
def Obligations.DueTransmissionsOfFitLines : Prop :=
  ∀ (s : State) (i : SlotNo) (u : SlotUse) (up : Option Upset), (s.slot i).use = some u → u.purpose = .update →
    let v := s.strike u.line up
    let r := s.lineRec u.line
    let tag := Frame.slotTag i (s.slot i).generation
    (FetchGranted s (.mendResend i) → v.checkGood u.line = true → r.pending = .inflight ⟨i, false⟩ →
        r.content = .valid →
        ∃ t, exec (.mendResendBuild up) s = .next t
          ∧ t = { v with slots := t.slots, place := some (ownFull v false tag u.line u.stamp), build := none }
          ∧ OnlySlot s t i ⟨(s.slot i).generation + 1, some { u with due := none, deadline := none }⟩)
      ∧ (∀ p, FetchGranted s (.replacement i) → v.checkGood u.line = true →
        r.pending = .inflightPosted ⟨i, false⟩ p → r.content = .valid →
        ∃ t, exec (.replacementBuild up) s = .next t
          ∧ t = { v with
              slots := t.slots, lines := t.lines, postList := s.postList.filter (· != u.line)
              place := some (ownFull v false tag u.line r.stamp), build := none }
          ∧ OnlySlot s t i
              ⟨(s.slot i).generation + 1, some { u with stamp := r.stamp, due := none, deadline := none }⟩
          ∧ OnlyRecord s t u.line { r with pending := .inflight ⟨i, false⟩ })

/-- The granted fetch for a due transmission whose line is not fit frees the slot, hands nothing over and moves the line: an
INFLIGHT line becomes IDLE, an INFLIGHT_POSTED one POSTED, with must-full yes unless it was superseded; a failing check acts
first; a line whose record does not name the slot stays as it is (R70, R71). An unfit replacement whose line is INFLIGHT,
VALID and not superseded is taken as the table's INFLIGHT rows (log 18). A drain with nothing left to wait for completes
(R195); that DRAINED COMPLETE comes behind LOCAL-LOST is the model's reading (log 11). -/
def Obligations.UnfitTransmissionFreesItsSlot : Prop :=
  ∀ (s : State) (i : SlotNo) (u : SlotUse) (up : Option Upset) (c : Instr), (s.slot i).use = some u →
    let v := s.strike u.line up
    let r := s.lineRec u.line
    ((c = .mendResendBuild up ∧ FetchGranted s (.mendResend i)
        ∧ ¬ (v.checkGood u.line = true ∧ r.pending = .inflight ⟨i, false⟩ ∧ r.content = .valid))
      ∨ (c = .replacementBuild up ∧ FetchGranted s (.replacement i)
        ∧ ¬ (v.checkGood u.line = true ∧ (∃ p, r.pending = .inflightPosted ⟨i, false⟩ p) ∧ r.content = .valid))) →
    ∃ t, exec c s = .next t
      ∧ t = { v with
          slots := t.slots, lines := t.lines, repairList := t.repairList, postList := t.postList, build := none
          notices := t.notices, drainPending := t.drainPending }
      ∧ OnlySlot s t i { s.slot i with use := none } ∧ SameBytes v t
      ∧ (v.checkGood u.line = true →
        t.repairList = s.repairList ∧ t.postList = s.postList ∧ GivesAndDrains s t []
          ∧ OnlyRecord s t u.line
              { r with
                pending :=
                  match r.pending with
                  | .inflight f => if f.slot = i then .idle else .inflight f
                  | .inflightPosted f p =>
                    if f.slot = i then .posted { p with mustFull := p.mustFull || !f.superseded }
                    else .inflightPosted f p
                  | .idle => .idle
                  | .posted p => .posted p })
      ∧ (v.checkGood u.line = false →
        FailureLists s t u.line ∧ GivesAndDrains s t (lostNotice s u.line)
          ∧ OnlyRecord s t u.line
              { failedRecord s u.line with
                pending :=
                  match r.pending.flight with
                  | some f => if f.slot = i then .idle else .inflight f
                  | none => .idle })

/-- The granted fetch for an answer takes the head off the Answer Queue. A VALID line with no apply pending that is IDLE or
INFLIGHT is sent as a FULL at its current stamp, UNTRACKED, with no slot; any other drops the answer; a failing check acts as
every check failure (R64, R73, R97). That DRAINED COMPLETE comes behind LOCAL-LOST is the model's reading (log 11). -/
def Obligations.AnswerIsBuiltOrDropped : Prop :=
  ∀ (s : State) (l : Nat) (rest : List Nat) (u : Option Upset), FetchGranted s .answer → s.answerQueue = l :: rest →
    let v := s.strike l u
    let r := s.lineRec l
    (v.checkGood l = false →
        ∃ t, exec (.answerBuild u) s = .next t
          ∧ t = { v with
              answerQueue := rest, lines := t.lines, repairList := t.repairList, postList := t.postList
              build := none, notices := t.notices, drainPending := t.drainPending }
          ∧ FailsCheck s t l ∧ GivesAndDrains s t (lostNotice s l) ∧ SameBytes v t)
      ∧ (v.checkGood l = true → r.content = .valid → r.applyPending = false → r.pending.post = none →
        exec (.answerBuild u) s =
          .next { v with answerQueue := rest, build := none, place := some (ownFull v true 0 l r.stamp) })
      ∧ (v.checkGood l = true → (r.content ≠ .valid ∨ r.applyPending = true ∨ r.pending.post ≠ none) →
        exec (.answerBuild u) s = .next { v with answerQueue := rest, build := none })

/-- A sweep step at the pointer, made when no other source is ready and the latch is set. In the refresh case it waits for its
fetch, which finds the case again and builds the refresh, a FULL at the current stamp, UNTRACKED, with no slot; in the listing
case the line is listed; any other line is left alone; a failing check acts as every check failure. The step's final claim
advances the pointer and clears the latch (R74, R121, R122, R123, R125, R126). That an untrusted line is listed also while it is
in flight or has apply pending is the model's reading of R122's table (log 38), and that DRAINED COMPLETE comes behind LOCAL-LOST
is its reading too (log 11). -/
def Obligations.SweepStepRefreshesListsOrPasses : Prop :=
  (∀ s : State, ChoosesPastProbe s → NoneDue s → s.answerQueue = [] → NoRequestReady s → NoPostReady s →
      s.sweep.due = true →
      (RefreshCase s s.sweep.pointer → exec .framerChoice s = .next { s with build := some .sweep })
        ∧ (ListingCase s s.sweep.pointer →
          ∃ t, exec .framerChoice s = .next t
            ∧ t = { s with
                lines := t.lines, repairList := s.repairList ++ [⟨s.sweep.pointer, s.now⟩], sweep := sweptOn s }
            ∧ OnlyRecord s t s.sweep.pointer { s.lineRec s.sweep.pointer with listed := true })
        ∧ (¬ RefreshCase s s.sweep.pointer → ¬ ListingCase s s.sweep.pointer →
          exec .framerChoice s = .next { s with sweep := sweptOn s }))
    ∧ ∀ (s : State) (u : Option Upset), FetchGranted s .sweep →
      let l := s.sweep.pointer
      let v := s.strike l u
      (v.checkGood l = false →
          ∃ t, exec (.sweepRefreshFetch u) s = .next t
            ∧ t = { v with
                lines := t.lines, repairList := t.repairList, postList := t.postList, build := none
                sweep := sweptOn s, notices := t.notices, drainPending := t.drainPending }
            ∧ FailsCheck s t l ∧ GivesAndDrains s t (lostNotice s l) ∧ SameBytes v t)
        ∧ (v.checkGood l = true → RefreshCase s l →
          exec (.sweepRefreshFetch u) s =
            .next { v with
              build := none, sweep := sweptOn s, place := some (ownFull v true 0 l (s.lineRec l).stamp) })
        ∧ (v.checkGood l = true → ListingCase s l →
          ∃ t, exec (.sweepRefreshFetch u) s = .next t
            ∧ t = { v with
                lines := t.lines, repairList := s.repairList ++ [⟨l, s.now⟩], build := none, sweep := sweptOn s }
            ∧ OnlyRecord s t l { s.lineRec l with listed := true })
        ∧ (v.checkGood l = true → ¬ RefreshCase s l → ¬ ListingCase s l →
          exec (.sweepRefreshFetch u) s = .next { v with build := none, sweep := sweptOn s })

/-! ## Timed events -/

/-- The deadline of an UPDATE slot. An INFLIGHT line that is VALID and not superseded is sent again below the retry limit and
is given up with UNDELIVERED TIMEOUT at it; superseded or untrusted, it becomes IDLE without notice (R86). An INFLIGHT_POSTED
line becomes POSTED when superseded (R86), and else a replacement becomes due with attempt count 0 (R87). That DRAINED COMPLETE
comes behind UNDELIVERED TIMEOUT is the model's reading (log 11). -/
def Obligations.UpdateDeadlineResendsReplacesOrGivesUp : Prop :=
  ∀ (s : State) (i : SlotNo) (u : SlotUse) (d : Nat) (x : Flight), (s.slot i).use = some u → u.purpose = .update →
    u.deadline = some d → (s.lineRec u.line).pending.flight = some x → x.slot = i →
    ∃ t, exec (.updateDeadline i) s = .next t
      ∧ (match (s.lineRec u.line).pending.post with
        | none =>
          if x.superseded = false ∧ (s.lineRec u.line).content = .valid
              ∧ u.attempts < s.config.retryLimit.toNat then
            t = { s with now := max s.now d, slots := t.slots, dueCount := s.dueCount + 1 }
              ∧ OnlySlot s t i
                  { s.slot i with
                    use := some { u with
                      attempts := u.attempts + 1, due := some ⟨.resend, s.dueCount⟩, deadline := none } }
          else
            t = { s with
                now := max s.now d, slots := t.slots, lines := t.lines, notices := t.notices
                drainPending := t.drainPending }
              ∧ OnlySlot s t i { s.slot i with use := none }
              ∧ OnlyRecord s t u.line { s.lineRec u.line with pending := .idle }
              ∧ GivesAndDrains s t
                  (if x.superseded = false ∧ (s.lineRec u.line).content = .valid then
                    [.undelivered u.line .timeout] else [])
        | some p =>
          if x.superseded = true then
            t = { s with
                now := max s.now d, slots := t.slots, lines := t.lines, notices := t.notices
                drainPending := t.drainPending }
              ∧ OnlySlot s t i { s.slot i with use := none }
              ∧ OnlyRecord s t u.line { s.lineRec u.line with pending := .posted p }
              ∧ GivesAndDrains s t []
          else
            t = { s with now := max s.now d, slots := t.slots, dueCount := s.dueCount + 1 }
              ∧ OnlySlot s t i
                  { s.slot i with
                    use := some { u with
                      attempts := 0, due := some ⟨.replacement, s.dueCount⟩, deadline := none } })

/-- The deadline of the outstanding probe discards it and raises the loss count, holding at 3; the third loss in ONLINE enters
ISOLATED with RING-DOWN PROBES (R155, R164). The probe interval timer makes a probe due, absorbed when one is due, and keeps
its spacing (R160). A sweep tick in ONLINE sets the latch, or sets the lag flag when the latch is set, and is ignored in
every other state; ticks keep their spacing (R119, R120). That DRAINED COMPLETE comes behind RING-DOWN PROBES is the model's
reading (log 11). -/
def Obligations.ProbeAndSweepTimers : Prop :=
  ∀ (s : State) (d : Nat),
    (∀ p : OutstandingProbe, s.probe.outstanding = some p → p.deadline = some d →
        (¬ (s.station = .online ∧ 2 ≤ s.probe.losses) →
            exec .probeLost s =
              .next { s with
                now := max s.now d
                probe := { s.probe with outstanding := none, losses := min 3 (s.probe.losses + 1) } })
          ∧ (s.station = .online → 2 ≤ s.probe.losses → s.SlotsAgree →
            ∃ t, exec .probeLost s = .next t
              ∧ t = { s with
                  now := max s.now d, probe := { s.probe with outstanding := none, losses := 3 }
                  slots := t.slots, lines := t.lines, postList := t.postList, place := placeIsolated s
                  build := none, station := t.station, drainPending := t.drainPending, notices := t.notices }
              ∧ EntersIsolated s t .probes ∧ SameBytes s t))
      ∧ (s.probe.timer = some d →
        exec .probeIntervalExpiry s =
          .next { s with
            now := max s.now d
            probe := { s.probe with due := true, timer := some (d + s.config.probeInterval.toNat) } })
      ∧ (s.sweep.timer = some d →
        exec .sweepTick s =
          .next { s with
            now := max s.now d
            sweep :=
              { s.sweep with
                timer := some (d + s.config.sweepInterval.toNat)
                due := s.sweep.due || decide (s.station = .online)
                lag := s.sweep.lag || (s.sweep.due && decide (s.station = .online)) } })

/-! ## Notices, stamps and frames -/

/-- A notice joins the tail of a queue below 63 notices, OVERFLOW is placed in its stead as the 64th, and a queue of 64 is
left unchanged (R190, R191). -/
def Obligations.NoticeQueueEndsInOverflow : Prop :=
  ∀ (s : State) (n : Notice),
    (s.notices.length < 63 → s.give n = { s with notices := s.notices ++ [n] })
      ∧ (s.notices.length = 63 → s.give n = { s with notices := s.notices ++ [.overflow] })
      ∧ (64 ≤ s.notices.length → s.give n = s)

/-- The order of stamps: the higher version is newer; at equal versions the higher station number is, and writer none ranks
below station 0; of two unequal stamps exactly one is newer, equal ones are not newer, and the blank stamp is older than every
other (R5). -/
def Obligations.StampOrderIsTotal : Prop :=
  (∀ a b : Stamp, a.newer b = true ↔
      b.version.toNat < a.version.toNat
        ∨ (a.version = b.version
          ∧ match a.writer, b.writer with
            | some x, some y => y.toNat < x.toNat
            | some _, none => True
            | none, _ => False))
    ∧ (∀ a b : Stamp, a ≠ b →
        (a.newer b = true ∧ b.newer a = false) ∨ (b.newer a = true ∧ a.newer b = false))
    ∧ (∀ a : Stamp, a.newer a = false)
    ∧ (∀ a : Stamp, a ≠ ⟨0, none⟩ → a.newer ⟨0, none⟩ = true)
    ∧ (∀ a b c : Stamp, a.newer b = true → b.newer c = true → a.newer c = true)
    ∧ ∀ a b : Stamp, a.atLeast b = true ↔ (a = b ∨ a.newer b = true)

/-- Every frame the part builds reads back, for all values of its fields: it has the length of its kind, passes its check, is
not malformed, and every field reads as it was put in, the slot and generation of a tag among them; a writer byte above 31 is
taken as writer none; the CRC of the nine digits is 29B1 hexadecimal (R62, R64, R131, R133, R134, R198, R199, R200). -/
def Obligations.OwnFramesReadBack : Prop :=
  (∀ (untracked : Bool) (budget origin tag : Byte) (line : Nat) (stamp base : Stamp) (mask : Mask)
      (data : List Byte) (token : BitVec 16) (map : BitVec 32), line < 65536 →
      (data.length = 32 →
          (Frame.full untracked budget origin tag line stamp data).length = 47
            ∧ ReceivedWell (Frame.full untracked budget origin tag line stamp data)
            ∧ HeaderReads (Frame.full untracked budget origin tag line stamp data) .full untracked budget origin tag line
            ∧ Frame.stamp (Frame.full untracked budget origin tag line stamp data) = stamp.asReceived
            ∧ Frame.fullData (Frame.full untracked budget origin tag line stamp data) = data)
        ∧ (mask ≠ 0 → data.length = popcount mask →
          (Frame.delta budget origin tag line stamp base mask data).length = 26 + popcount mask
            ∧ ReceivedWell (Frame.delta budget origin tag line stamp base mask data)
            ∧ HeaderReads (Frame.delta budget origin tag line stamp base mask data) .delta false budget origin tag line
            ∧ Frame.stamp (Frame.delta budget origin tag line stamp base mask data) = stamp.asReceived
            ∧ Frame.baseStamp (Frame.delta budget origin tag line stamp base mask data) = base.asReceived
            ∧ Frame.mask (Frame.delta budget origin tag line stamp base mask data) = mask
            ∧ Frame.deltaData (Frame.delta budget origin tag line stamp base mask data) = data)
        ∧ ((Frame.request budget origin tag line stamp).length = 15
          ∧ ReceivedWell (Frame.request budget origin tag line stamp)
          ∧ HeaderReads (Frame.request budget origin tag line stamp) .request false budget origin tag line
          ∧ Frame.stamp (Frame.request budget origin tag line stamp) = stamp.asReceived)
        ∧ ((Frame.probe budget origin tag token map).length = 14
          ∧ ReceivedWell (Frame.probe budget origin tag token map)
          ∧ HeaderReads (Frame.probe budget origin tag token map) .probe false budget origin tag 0
          ∧ Frame.token (Frame.probe budget origin tag token map) = token
          ∧ Frame.presence (Frame.probe budget origin tag token map) = map))
    ∧ (∀ (f : List Byte) (i : SlotNo) (g : BitVec 4), Frame.tag f = Frame.slotTag i g →
        Frame.slot f = i ∧ Frame.generation f = g)
    ∧ Crc.compute [0x31, 0x32, 0x33, 0x34, 0x35, 0x36, 0x37, 0x38, 0x39] = 0x29B1#16

/-- The forwarded copy of a frame whose check was good has its length and a good check, a hop budget one lower, MISSED and
ANSWERED set where the action sets them and never cleared, this station's position set in a PROBE's presence map, and every
other bit as received (R141, R142). -/
def Obligations.ForwardedCopyChangesOnlyItsMarks : Prop :=
  ∀ (f : List Byte) (m : Marks), Frame.checkGood f = true → (m.presence ≠ none → f.length = 14) →
    (Frame.forwarded f m).length = f.length
      ∧ Frame.checkGood (Frame.forwarded f m) = true
      ∧ Frame.budget (Frame.forwarded f m) = Frame.budget f - 1
      ∧ Frame.missed (Frame.forwarded f m) = (Frame.missed f || m.missed)
      ∧ Frame.answered (Frame.forwarded f m) = (Frame.answered f || m.answered)
      ∧ Frame.byte (Frame.forwarded f m) 0 &&& 0xF3#8 = Frame.byte f 0 &&& 0xF3#8
      ∧ (∀ i, 2 ≤ i → i + 2 < f.length → (m.presence = none ∨ i < 8 ∨ 12 ≤ i) →
          Frame.byte (Frame.forwarded f m) i = Frame.byte f i)
      ∧ ∀ n, m.presence = some n → ∀ k, k < 32 →
          (Frame.presence (Frame.forwarded f m)).getLsbD k = ((Frame.presence f).getLsbD k || decide (k = n.toNat))

/-! ## Invariants -/

/-- The state right after RESET satisfies every invariant below. -/
def Obligations.ResetSatisfiesTheInvariants : Prop :=
  State.reset.Canonical ∧ State.reset.WithinReplica ∧ State.reset.WithinCapacity ∧ State.reset.AttemptsBounded
    ∧ State.reset.EntriesFit
    ∧ State.reset.ListsAgree ∧ State.reset.SlotsAgree ∧ State.reset.QuietOutsideOnline ∧ State.reset.PostsTrusted
    ∧ State.reset.EntriesFollowStamps ∧ State.reset.SendingAgrees ∧ State.reset.LinkAgrees
    ∧ State.reset.StationAgrees ∧ State.reset.DrainAgrees

/-- Every step keeps the replica, the check codes and the records in canonical form and within the 131,072 bytes and 4096
lines of the part (R2, R6). -/
def Obligations.StepsKeepTheReplicaCanonical : Prop :=
  ∀ s t : State, s.Canonical ∧ s.WithinReplica → step s = .next t → t.Canonical ∧ t.WithinReplica

/-- Every step keeps every list, queue, count and table within what the spec gives it, an attempt count at 0 to 7 among them,
OVERFLOW at the tail of a full Notice Queue, and every apply entry with one byte for each position of its mask (R34, R60,
R103, R111, R159, R190, R191). -/
def Obligations.StepsKeepTheCapacities : Prop :=
  ∀ s t : State, s.WithinCapacity ∧ s.AttemptsBounded ∧ s.EntriesFit → step s = .next t →
    t.WithinCapacity ∧ t.AttemptsBounded ∧ t.EntriesFit

/-- Every step keeps the marks of the line records and the lists they follow, and the lines in flight and the slots that track
them, in agreement; no slot is in use outside ONLINE (R35, R55, R60, R94, R103, R104). -/
def Obligations.StepsKeepRecordsListsAndSlotsAgreed : Prop :=
  ∀ s t : State, s.ListsAgree ∧ s.SlotsAgree ∧ s.QuietOutsideOnline → step s = .next t →
    t.ListsAgree ∧ t.SlotsAgree ∧ t.QuietOutsideOnline

/-- Every step keeps posts on trusted lines with no apply pending, and the queued entries no newer than their lines' current
stamps (R10, R27, R34, R43). -/
def Obligations.StepsKeepPostsTrusted : Prop :=
  ∀ s t : State, s.ListsAgree ∧ s.PostsTrusted ∧ s.EntriesFollowStamps → step s = .next t →
    t.ListsAgree ∧ t.PostsTrusted ∧ t.EntriesFollowStamps

/-- Every step keeps the Bypass FIFO within its 128 bytes and ring-out, the place and the switches of the Forwarding Unit in
agreement with the station state (R136 to R139, R143, R144). -/
def Obligations.StepsKeepTheLinkAgreed : Prop :=
  ∀ s t : State, s.SendingAgrees ∧ s.LinkAgrees ∧ s.QuietOutsideOnline → step s = .next t →
    t.SendingAgrees ∧ t.LinkAgrees ∧ t.QuietOutsideOnline

/-- Every step keeps the configuration locked and in range outside OFFLINE, the probe record and the membership map empty
outside the active states, the part idle until the clearing pass ends, and a drain pending only while it waits for something
(R14, R15, R113, R150, R151, R159, R171, R194, R195). -/
def Obligations.StepsKeepTheStationAgreed : Prop :=
  ∀ s t : State, s.StationAgrees ∧ s.DrainAgrees → step s = .next t → t.StationAgrees ∧ t.DrainAgrees
end

