-- ==== Sys2Proof/Laws/Sparse.lean ====
section
/-! SUPPORT. Reading a sparse table after a write, and the canonical form under every operation. Reading laws hold of any
list, canonical or not. -/

namespace Sys2Proof.Machine

variable {α : Type} (d : α)

theorem Sparse.get_erase_same (m : List (Nat × α)) (i : Nat) : Sparse.get d (Sparse.erase m i) i = d := by
  induction m with
  | nil => rfl
  | cons e m ih =>
    obtain ⟨k, v⟩ := e
    by_cases h : i = k
    · simp [Sparse.erase, h] at ih ⊢; simpa [h] using ih
    · simp [Sparse.erase, Sparse.get, h, ih]

theorem Sparse.get_erase_other (m : List (Nat × α)) {i j : Nat} (h : j ≠ i) :
    Sparse.get d (Sparse.erase m i) j = Sparse.get d m j := by
  induction m with
  | nil => rfl
  | cons e m ih =>
    obtain ⟨k, v⟩ := e
    by_cases hk : i = k
    · subst hk; simp [Sparse.erase, Sparse.get, h, ih]
    · simp [Sparse.erase, Sparse.get, hk, ih]

theorem Sparse.get_put_same (m : List (Nat × α)) (i : Nat) (v : α) : Sparse.get d (Sparse.put m i v) i = v := by
  induction m with
  | nil => simp [Sparse.put, Sparse.get]
  | cons e m ih =>
    obtain ⟨k, w⟩ := e
    by_cases h : i < k
    · simp [Sparse.put, Sparse.get, h]
    · by_cases hk : i = k
      · simp [Sparse.put, Sparse.get, hk]
      · simp [Sparse.put, Sparse.get, h, hk, ih]

theorem Sparse.get_put_other (m : List (Nat × α)) {i j : Nat} (v : α) (h : j ≠ i) :
    Sparse.get d (Sparse.put m i v) j = Sparse.get d m j := by
  induction m with
  | nil => simp [Sparse.put, Sparse.get, h]
  | cons e m ih =>
    obtain ⟨k, w⟩ := e
    by_cases hlt : i < k
    · simp [Sparse.put, Sparse.get, hlt, h]
    · by_cases hk : i = k
      · subst hk; simp [Sparse.put, Sparse.get, h]
      · simp [Sparse.put, Sparse.get, hlt, hk, ih]

variable [DecidableEq α]

/-- A written key reads as what was written. -/
@[simp] theorem Sparse.get_set_same (m : List (Nat × α)) (i : Nat) (v : α) :
    Sparse.get d (Sparse.set d m i v) i = v := by
  unfold Sparse.set
  split
  · next h => rw [Sparse.get_erase_same, h]
  · exact Sparse.get_put_same d m i v

/-- Every other key reads as before. -/
theorem Sparse.get_set_other (m : List (Nat × α)) {i j : Nat} (v : α) (h : j ≠ i) :
    Sparse.get d (Sparse.set d m i v) j = Sparse.get d m j := by
  unfold Sparse.set
  split
  · exact Sparse.get_erase_other d m h
  · exact Sparse.get_put_other d m v h

omit [DecidableEq α] in
theorem Sparse.mem_erase {m : List (Nat × α)} {i : Nat} {e : Nat × α} (h : e ∈ Sparse.erase m i) : e ∈ m := by
  induction m with
  | nil => simp [Sparse.erase] at h
  | cons x m ih =>
    obtain ⟨k, v⟩ := x
    by_cases hk : i = k
    · simp only [Sparse.erase, hk, if_true] at h; subst hk; exact List.mem_cons_of_mem _ (ih h)
    · simp only [Sparse.erase, hk, if_false, List.mem_cons] at h
      rcases h with h | h
      · exact List.mem_cons.2 (Or.inl h)
      · exact List.mem_cons_of_mem _ (ih h)

omit [DecidableEq α] in
theorem Sparse.mem_put {m : List (Nat × α)} {i : Nat} {v : α} {e : Nat × α} (h : e ∈ Sparse.put m i v) :
    e = (i, v) ∨ e ∈ m := by
  induction m with
  | nil => simpa [Sparse.put] using h
  | cons x m ih =>
    obtain ⟨k, w⟩ := x
    by_cases hlt : i < k
    · simp only [Sparse.put, hlt, if_true, List.mem_cons] at h ⊢; exact h
    · by_cases hk : i = k
      · simp only [Sparse.put, hk, if_true, List.mem_cons] at h ⊢
        simp at h
        rcases h with h | h
        · exact Or.inl h
        · exact Or.inr (Or.inr h)
      · simp only [Sparse.put, hlt, hk, if_false, List.mem_cons] at h ⊢
        rcases h with h | h
        · exact Or.inr (Or.inl h)
        · rcases ih h with h | h
          · exact Or.inl h
          · exact Or.inr (Or.inr h)

/-- An entry of a written table is the one written or was there before. -/
theorem Sparse.mem_set {m : List (Nat × α)} {i : Nat} {v : α} {e : Nat × α} (h : e ∈ Sparse.set d m i v) :
    e = (i, v) ∨ e ∈ m := by
  unfold Sparse.set at h
  split at h
  · exact Or.inr (Sparse.mem_erase h)
  · exact Sparse.mem_put h

omit [DecidableEq α] in
theorem Sparse.erase_pairwise {m : List (Nat × α)} (h : m.Pairwise (fun a b => a.1 < b.1)) (i : Nat) :
    (Sparse.erase m i).Pairwise (fun a b => a.1 < b.1) := by
  induction m with
  | nil => simp [Sparse.erase]
  | cons x m ih =>
    obtain ⟨k, v⟩ := x
    rw [List.pairwise_cons] at h
    by_cases hk : i = k
    · simp only [Sparse.erase, hk, if_true]; subst hk; exact ih h.2
    · simp only [Sparse.erase, hk, if_false]
      exact List.pairwise_cons.2 ⟨fun b hb => h.1 b (Sparse.mem_erase hb), ih h.2⟩

omit [DecidableEq α] in
theorem Sparse.put_pairwise {m : List (Nat × α)} (h : m.Pairwise (fun a b => a.1 < b.1)) (i : Nat) (v : α) :
    (Sparse.put m i v).Pairwise (fun a b => a.1 < b.1) := by
  induction m with
  | nil => simp [Sparse.put]
  | cons x m ih =>
    obtain ⟨k, w⟩ := x
    have hc := List.pairwise_cons.1 h
    by_cases hlt : i < k
    · simp only [Sparse.put, hlt, if_true]
      refine List.pairwise_cons.2 ⟨?_, h⟩
      intro b hb
      rcases List.mem_cons.1 hb with rfl | hb
      · exact hlt
      · exact Nat.lt_trans hlt (hc.1 b hb)
    · by_cases hk : i = k
      · subst hk
        simp only [Sparse.put, Nat.lt_irrefl, if_false, if_true]
        exact List.pairwise_cons.2 ⟨hc.1, hc.2⟩
      · simp only [Sparse.put, hlt, hk, if_false]
        refine List.pairwise_cons.2 ⟨?_, ih hc.2⟩
        intro b hb
        rcases Sparse.mem_put hb with rfl | hb
        · show k < i
          omega
        · exact hc.1 b hb

/-- A write keeps the canonical form. -/
theorem Sparse.Wf.set {m : List (Nat × α)} (h : Sparse.Wf d m) (i : Nat) (v : α) :
    Sparse.Wf d (Sparse.set d m i v) := by
  unfold Sparse.set
  split
  · exact ⟨Sparse.erase_pairwise h.1 i, fun e he => h.2 e (Sparse.mem_erase he)⟩
  · next hv =>
    refine ⟨Sparse.put_pairwise h.1 i v, ?_⟩
    intro e he
    rcases Sparse.mem_put he with rfl | he
    · exact hv
    · exact h.2 e he

omit [DecidableEq α] in
/-- In canonical form a key reads as an entry exactly when the entry is listed. -/
theorem Sparse.get_of_mem {m : List (Nat × α)} (h : m.Pairwise (fun a b => a.1 < b.1)) {i : Nat} {v : α}
    (hm : (i, v) ∈ m) : Sparse.get d m i = v := by
  induction m with
  | nil => simp at hm
  | cons x m ih =>
    obtain ⟨k, w⟩ := x
    have hc := List.pairwise_cons.1 h
    rcases List.mem_cons.1 hm with he | hm
    · cases he; simp [Sparse.get]
    · have hlt := hc.1 _ hm
      have hne : i ≠ k := by
        intro he; subst he; exact Nat.lt_irrefl _ hlt
      simp [Sparse.get, hne, ih hc.2 hm]

omit [DecidableEq α] in
theorem Sparse.get_of_not_mem {m : List (Nat × α)} {i : Nat} (hm : ∀ v, (i, v) ∉ m) : Sparse.get d m i = d := by
  induction m with
  | nil => rfl
  | cons x m ih =>
    obtain ⟨k, w⟩ := x
    have hne : i ≠ k := by
      intro he; subst he; exact hm w List.mem_cons_self
    simp only [Sparse.get, hne, if_false]
    exact ih fun v hv => hm v (List.mem_cons_of_mem _ hv)

/-! ## The replica's bytes -/

@[simp] theorem Memory.read_nil (a : Nat) : Memory.read [] a = 0#8 := rfl

@[simp] theorem Memory.read_write_same (m : List Host.Cell) (a : Nat) (b : Byte) :
    Memory.read (Memory.write m a b) a = b := Sparse.get_set_same _ m a b

theorem Memory.read_write_other (m : List Host.Cell) {a c : Nat} (b : Byte) (h : c ≠ a) :
    Memory.read (Memory.write m a b) c = Memory.read m c := Sparse.get_set_other _ m b h

theorem Memory.wf_nil : Memory.wf [] := ⟨List.Pairwise.nil, by simp⟩

theorem Memory.wf_write {m : List Host.Cell} (h : Memory.wf m) (a : Nat) (b : Byte) :
    Memory.wf (Memory.write m a b) := Sparse.Wf.set _ h a b

theorem Memory.wf_writeBytes {m : List Host.Cell} (h : Memory.wf m) (a : Nat) (bs : List Byte) :
    Memory.wf (Memory.writeBytes m a bs) := by
  induction bs generalizing m a with
  | nil => exact h
  | cons b bs ih => exact ih (Memory.wf_write h a b) (a + 1)

/-- Outside the bytes written every address reads as before. -/
theorem Memory.read_writeBytes_outside (m : List Host.Cell) (a : Nat) (bs : List Byte) {c : Nat}
    (h : c < a ∨ a + bs.length ≤ c) : Memory.read (Memory.writeBytes m a bs) c = Memory.read m c := by
  induction bs generalizing m a with
  | nil => rfl
  | cons b bs ih =>
    have h' : c < a ∨ a + (bs.length + 1) ≤ c := by simpa using h
    have hne : c ≠ a := by omega
    rw [Memory.writeBytes, ih (Memory.write m a b) (a + 1) (by omega), Memory.read_write_other m b hne]

/-- Inside, the address reads as the byte written there. -/
theorem Memory.read_writeBytes_inside (m : List Host.Cell) (a : Nat) (bs : List Byte) {n : Nat} (h : n < bs.length) :
    Memory.read (Memory.writeBytes m a bs) (a + n) = bs[n] := by
  induction bs generalizing m a n with
  | nil => simp at h
  | cons b bs ih =>
    cases n with
    | zero =>
      rw [Memory.writeBytes, Memory.read_writeBytes_outside _ _ _ (by omega)]
      simp
    | succ n =>
      have h' : n < bs.length := by simpa using h
      have := ih (Memory.write m a b) (a + 1) h'
      rw [Memory.writeBytes]
      simpa [Nat.add_assoc, Nat.add_comm 1 n] using this

/-- An address listed after a write lies inside the bytes written or was listed before. -/
theorem Memory.mem_writeBytes {m : List Host.Cell} {a : Nat} {bs : List Byte} {e : Host.Cell}
    (h : e ∈ Memory.writeBytes m a bs) : (a ≤ e.1 ∧ e.1 < a + bs.length) ∨ e ∈ m := by
  induction bs generalizing m a with
  | nil => exact Or.inr h
  | cons b bs ih =>
    have hl : (b :: bs).length = bs.length + 1 := rfl
    rcases ih (m := Memory.write m a b) (a := a + 1) h with h' | h'
    · left; omega
    · rcases Sparse.mem_set _ h' with h'' | h''
      · left; subst h''; simp
      · exact Or.inr h''

end Sys2Proof.Machine
end

