-- ==== Sys2Proof/Laws/State.lean ====
section
/-! SUPPORT. What each update of the state leaves as it was and what it sets: one lemma for each field, and
one for each reading (a line's record, its bytes, its code, a slot) that the update does not reach. -/

namespace Sys2Proof.Machine

variable (s : State)

/-! ## writeCells -/

@[simp] theorem State.writeCells_pending (line : Nat) (bytes : List Byte) (code : BitVec 16) :
    (s.writeCells line bytes code).pending = s.pending := rfl
@[simp] theorem State.writeCells_now (line : Nat) (bytes : List Byte) (code : BitVec 16) :
    (s.writeCells line bytes code).now = s.now := rfl
@[simp] theorem State.writeCells_freeCount (line : Nat) (bytes : List Byte) (code : BitVec 16) :
    (s.writeCells line bytes code).freeCount = s.freeCount := rfl
@[simp] theorem State.writeCells_resetCount (line : Nat) (bytes : List Byte) (code : BitVec 16) :
    (s.writeCells line bytes code).resetCount = s.resetCount := rfl
@[simp] theorem State.writeCells_phase (line : Nat) (bytes : List Byte) (code : BitVec 16) :
    (s.writeCells line bytes code).phase = s.phase := rfl
@[simp] theorem State.writeCells_mem (line : Nat) (bytes : List Byte) (code : BitVec 16) :
    (s.writeCells line bytes code).mem = Memory.writeBytes s.mem (32 * line) bytes := rfl
@[simp] theorem State.writeCells_codes (line : Nat) (bytes : List Byte) (code : BitVec 16) :
    (s.writeCells line bytes code).codes = Sparse.set zeroCode s.codes line code := by
  simp only [State.writeCells]
@[simp] theorem State.writeCells_lines (line : Nat) (bytes : List Byte) (code : BitVec 16) :
    (s.writeCells line bytes code).lines = s.lines := rfl
@[simp] theorem State.writeCells_query (line : Nat) (bytes : List Byte) (code : BitVec 16) :
    (s.writeCells line bytes code).query = s.query := rfl
@[simp] theorem State.writeCells_applyQueue (line : Nat) (bytes : List Byte) (code : BitVec 16) :
    (s.writeCells line bytes code).applyQueue = s.applyQueue := rfl
@[simp] theorem State.writeCells_receiving (line : Nat) (bytes : List Byte) (code : BitVec 16) :
    (s.writeCells line bytes code).receiving = s.receiving := rfl
@[simp] theorem State.writeCells_carrier (line : Nat) (bytes : List Byte) (code : BitVec 16) :
    (s.writeCells line bytes code).carrier = s.carrier := rfl
@[simp] theorem State.writeCells_postList (line : Nat) (bytes : List Byte) (code : BitVec 16) :
    (s.writeCells line bytes code).postList = s.postList := rfl
@[simp] theorem State.writeCells_slots (line : Nat) (bytes : List Byte) (code : BitVec 16) :
    (s.writeCells line bytes code).slots = s.slots := rfl
@[simp] theorem State.writeCells_dueCount (line : Nat) (bytes : List Byte) (code : BitVec 16) :
    (s.writeCells line bytes code).dueCount = s.dueCount := rfl
@[simp] theorem State.writeCells_build (line : Nat) (bytes : List Byte) (code : BitVec 16) :
    (s.writeCells line bytes code).build = s.build := rfl
@[simp] theorem State.writeCells_repairList (line : Nat) (bytes : List Byte) (code : BitVec 16) :
    (s.writeCells line bytes code).repairList = s.repairList := rfl
@[simp] theorem State.writeCells_answerQueue (line : Nat) (bytes : List Byte) (code : BitVec 16) :
    (s.writeCells line bytes code).answerQueue = s.answerQueue := rfl
@[simp] theorem State.writeCells_sweep (line : Nat) (bytes : List Byte) (code : BitVec 16) :
    (s.writeCells line bytes code).sweep = s.sweep := rfl
@[simp] theorem State.writeCells_fifo (line : Nat) (bytes : List Byte) (code : BitVec 16) :
    (s.writeCells line bytes code).fifo = s.fifo := rfl
@[simp] theorem State.writeCells_place (line : Nat) (bytes : List Byte) (code : BitVec 16) :
    (s.writeCells line bytes code).place = s.place := rfl
@[simp] theorem State.writeCells_sending (line : Nat) (bytes : List Byte) (code : BitVec 16) :
    (s.writeCells line bytes code).sending = s.sending := rfl
@[simp] theorem State.writeCells_linkMode (line : Nat) (bytes : List Byte) (code : BitVec 16) :
    (s.writeCells line bytes code).linkMode = s.linkMode := rfl
@[simp] theorem State.writeCells_switchAsked (line : Nat) (bytes : List Byte) (code : BitVec 16) :
    (s.writeCells line bytes code).switchAsked = s.switchAsked := rfl
@[simp] theorem State.writeCells_station (line : Nat) (bytes : List Byte) (code : BitVec 16) :
    (s.writeCells line bytes code).station = s.station := rfl
@[simp] theorem State.writeCells_config (line : Nat) (bytes : List Byte) (code : BitVec 16) :
    (s.writeCells line bytes code).config = s.config := rfl
@[simp] theorem State.writeCells_locked (line : Nat) (bytes : List Byte) (code : BitVec 16) :
    (s.writeCells line bytes code).locked = s.locked := rfl
@[simp] theorem State.writeCells_probe (line : Nat) (bytes : List Byte) (code : BitVec 16) :
    (s.writeCells line bytes code).probe = s.probe := rfl
@[simp] theorem State.writeCells_membership (line : Nat) (bytes : List Byte) (code : BitVec 16) :
    (s.writeCells line bytes code).membership = s.membership := rfl
@[simp] theorem State.writeCells_drainPending (line : Nat) (bytes : List Byte) (code : BitVec 16) :
    (s.writeCells line bytes code).drainPending = s.drainPending := rfl
@[simp] theorem State.writeCells_access (line : Nat) (bytes : List Byte) (code : BitVec 16) :
    (s.writeCells line bytes code).access = s.access := rfl
@[simp] theorem State.writeCells_completion (line : Nat) (bytes : List Byte) (code : BitVec 16) :
    (s.writeCells line bytes code).completion = s.completion := rfl
@[simp] theorem State.writeCells_hold (line : Nat) (bytes : List Byte) (code : BitVec 16) :
    (s.writeCells line bytes code).hold = s.hold := rfl
@[simp] theorem State.writeCells_intEnable (line : Nat) (bytes : List Byte) (code : BitVec 16) :
    (s.writeCells line bytes code).intEnable = s.intEnable := rfl
@[simp] theorem State.writeCells_commandWord (line : Nat) (bytes : List Byte) (code : BitVec 16) :
    (s.writeCells line bytes code).commandWord = s.commandWord := rfl
@[simp] theorem State.writeCells_result (line : Nat) (bytes : List Byte) (code : BitVec 16) :
    (s.writeCells line bytes code).result = s.result := rfl
@[simp] theorem State.writeCells_notices (line : Nat) (bytes : List Byte) (code : BitVec 16) :
    (s.writeCells line bytes code).notices = s.notices := rfl
@[simp] theorem State.writeCells_lineRec (line : Nat) (bytes : List Byte) (code : BitVec 16) (l : Nat) :
    (s.writeCells line bytes code).lineRec l = s.lineRec l := rfl
@[simp] theorem State.writeCells_slot (line : Nat) (bytes : List Byte) (code : BitVec 16) (j : SlotNo) :
    (s.writeCells line bytes code).slot j = s.slot j := rfl
@[simp] theorem State.writeCells_updateSlots (line : Nat) (bytes : List Byte) (code : BitVec 16) :
    (s.writeCells line bytes code).updateSlots = s.updateSlots := rfl
@[simp] theorem State.writeCells_inWindow (line : Nat) (bytes : List Byte) (code : BitVec 16) (l : Nat) :
    (s.writeCells line bytes code).inWindow l = s.inWindow l := rfl
@[simp] theorem State.writeCells_isHeld (line : Nat) (bytes : List Byte) (code : BitVec 16) (l : Nat) :
    (s.writeCells line bytes code).isHeld l = s.isHeld l := rfl

/-! ## setRec -/

@[simp] theorem State.setRec_pending (line : Nat) (r : LineRecord) : (s.setRec line r).pending = s.pending := rfl
@[simp] theorem State.setRec_now (line : Nat) (r : LineRecord) : (s.setRec line r).now = s.now := rfl
@[simp] theorem State.setRec_freeCount (line : Nat) (r : LineRecord) : (s.setRec line r).freeCount = s.freeCount := rfl
@[simp] theorem State.setRec_resetCount (line : Nat) (r : LineRecord) :
    (s.setRec line r).resetCount = s.resetCount := rfl
@[simp] theorem State.setRec_phase (line : Nat) (r : LineRecord) : (s.setRec line r).phase = s.phase := rfl
@[simp] theorem State.setRec_mem (line : Nat) (r : LineRecord) : (s.setRec line r).mem = s.mem := rfl
@[simp] theorem State.setRec_codes (line : Nat) (r : LineRecord) : (s.setRec line r).codes = s.codes := rfl
@[simp] theorem State.setRec_lines (line : Nat) (r : LineRecord) :
    (s.setRec line r).lines = Sparse.set LineRecord.reset s.lines line r := rfl
@[simp] theorem State.setRec_query (line : Nat) (r : LineRecord) : (s.setRec line r).query = s.query := rfl
@[simp] theorem State.setRec_applyQueue (line : Nat) (r : LineRecord) :
    (s.setRec line r).applyQueue = s.applyQueue := rfl
@[simp] theorem State.setRec_receiving (line : Nat) (r : LineRecord) : (s.setRec line r).receiving = s.receiving := rfl
@[simp] theorem State.setRec_carrier (line : Nat) (r : LineRecord) : (s.setRec line r).carrier = s.carrier := rfl
@[simp] theorem State.setRec_postList (line : Nat) (r : LineRecord) : (s.setRec line r).postList = s.postList := rfl
@[simp] theorem State.setRec_slots (line : Nat) (r : LineRecord) : (s.setRec line r).slots = s.slots := rfl
@[simp] theorem State.setRec_dueCount (line : Nat) (r : LineRecord) : (s.setRec line r).dueCount = s.dueCount := rfl
@[simp] theorem State.setRec_build (line : Nat) (r : LineRecord) : (s.setRec line r).build = s.build := rfl
@[simp] theorem State.setRec_repairList (line : Nat) (r : LineRecord) :
    (s.setRec line r).repairList = s.repairList := rfl
@[simp] theorem State.setRec_answerQueue (line : Nat) (r : LineRecord) :
    (s.setRec line r).answerQueue = s.answerQueue := rfl
@[simp] theorem State.setRec_sweep (line : Nat) (r : LineRecord) : (s.setRec line r).sweep = s.sweep := rfl
@[simp] theorem State.setRec_fifo (line : Nat) (r : LineRecord) : (s.setRec line r).fifo = s.fifo := rfl
@[simp] theorem State.setRec_place (line : Nat) (r : LineRecord) : (s.setRec line r).place = s.place := rfl
@[simp] theorem State.setRec_sending (line : Nat) (r : LineRecord) : (s.setRec line r).sending = s.sending := rfl
@[simp] theorem State.setRec_linkMode (line : Nat) (r : LineRecord) : (s.setRec line r).linkMode = s.linkMode := rfl
@[simp] theorem State.setRec_switchAsked (line : Nat) (r : LineRecord) :
    (s.setRec line r).switchAsked = s.switchAsked := rfl
@[simp] theorem State.setRec_station (line : Nat) (r : LineRecord) : (s.setRec line r).station = s.station := rfl
@[simp] theorem State.setRec_config (line : Nat) (r : LineRecord) : (s.setRec line r).config = s.config := rfl
@[simp] theorem State.setRec_locked (line : Nat) (r : LineRecord) : (s.setRec line r).locked = s.locked := rfl
@[simp] theorem State.setRec_probe (line : Nat) (r : LineRecord) : (s.setRec line r).probe = s.probe := rfl
@[simp] theorem State.setRec_membership (line : Nat) (r : LineRecord) :
    (s.setRec line r).membership = s.membership := rfl
@[simp] theorem State.setRec_drainPending (line : Nat) (r : LineRecord) :
    (s.setRec line r).drainPending = s.drainPending := rfl
@[simp] theorem State.setRec_access (line : Nat) (r : LineRecord) : (s.setRec line r).access = s.access := rfl
@[simp] theorem State.setRec_completion (line : Nat) (r : LineRecord) :
    (s.setRec line r).completion = s.completion := rfl
@[simp] theorem State.setRec_hold (line : Nat) (r : LineRecord) : (s.setRec line r).hold = s.hold := rfl
@[simp] theorem State.setRec_intEnable (line : Nat) (r : LineRecord) : (s.setRec line r).intEnable = s.intEnable := rfl
@[simp] theorem State.setRec_commandWord (line : Nat) (r : LineRecord) :
    (s.setRec line r).commandWord = s.commandWord := rfl
@[simp] theorem State.setRec_result (line : Nat) (r : LineRecord) : (s.setRec line r).result = s.result := rfl
@[simp] theorem State.setRec_notices (line : Nat) (r : LineRecord) : (s.setRec line r).notices = s.notices := rfl
@[simp] theorem State.setRec_slot (line : Nat) (r : LineRecord) (j : SlotNo) :
    (s.setRec line r).slot j = s.slot j := rfl
@[simp] theorem State.setRec_byteAt (line : Nat) (r : LineRecord) (a : Nat) :
    (s.setRec line r).byteAt a = s.byteAt a := rfl
@[simp] theorem State.setRec_lineBytes (line : Nat) (r : LineRecord) (l : Nat) :
    (s.setRec line r).lineBytes l = s.lineBytes l := rfl
@[simp] theorem State.setRec_lineCode (line : Nat) (r : LineRecord) (l : Nat) :
    (s.setRec line r).lineCode l = s.lineCode l := rfl
@[simp] theorem State.setRec_updateSlots (line : Nat) (r : LineRecord) :
    (s.setRec line r).updateSlots = s.updateSlots := rfl
@[simp] theorem State.setRec_inWindow (line : Nat) (r : LineRecord) (l : Nat) :
    (s.setRec line r).inWindow l = s.inWindow l := rfl
@[simp] theorem State.setRec_isHeld (line : Nat) (r : LineRecord) (l : Nat) :
    (s.setRec line r).isHeld l = s.isHeld l := rfl

/-! ## give -/

@[simp] theorem State.give_pending (n : Notice) : (s.give n).pending = s.pending := rfl
@[simp] theorem State.give_now (n : Notice) : (s.give n).now = s.now := rfl
@[simp] theorem State.give_freeCount (n : Notice) : (s.give n).freeCount = s.freeCount := rfl
@[simp] theorem State.give_resetCount (n : Notice) : (s.give n).resetCount = s.resetCount := rfl
@[simp] theorem State.give_phase (n : Notice) : (s.give n).phase = s.phase := rfl
@[simp] theorem State.give_mem (n : Notice) : (s.give n).mem = s.mem := rfl
@[simp] theorem State.give_codes (n : Notice) : (s.give n).codes = s.codes := rfl
@[simp] theorem State.give_lines (n : Notice) : (s.give n).lines = s.lines := rfl
@[simp] theorem State.give_query (n : Notice) : (s.give n).query = s.query := rfl
@[simp] theorem State.give_applyQueue (n : Notice) : (s.give n).applyQueue = s.applyQueue := rfl
@[simp] theorem State.give_receiving (n : Notice) : (s.give n).receiving = s.receiving := rfl
@[simp] theorem State.give_carrier (n : Notice) : (s.give n).carrier = s.carrier := rfl
@[simp] theorem State.give_postList (n : Notice) : (s.give n).postList = s.postList := rfl
@[simp] theorem State.give_slots (n : Notice) : (s.give n).slots = s.slots := rfl
@[simp] theorem State.give_dueCount (n : Notice) : (s.give n).dueCount = s.dueCount := rfl
@[simp] theorem State.give_build (n : Notice) : (s.give n).build = s.build := rfl
@[simp] theorem State.give_repairList (n : Notice) : (s.give n).repairList = s.repairList := rfl
@[simp] theorem State.give_answerQueue (n : Notice) : (s.give n).answerQueue = s.answerQueue := rfl
@[simp] theorem State.give_sweep (n : Notice) : (s.give n).sweep = s.sweep := rfl
@[simp] theorem State.give_fifo (n : Notice) : (s.give n).fifo = s.fifo := rfl
@[simp] theorem State.give_place (n : Notice) : (s.give n).place = s.place := rfl
@[simp] theorem State.give_sending (n : Notice) : (s.give n).sending = s.sending := rfl
@[simp] theorem State.give_linkMode (n : Notice) : (s.give n).linkMode = s.linkMode := rfl
@[simp] theorem State.give_switchAsked (n : Notice) : (s.give n).switchAsked = s.switchAsked := rfl
@[simp] theorem State.give_station (n : Notice) : (s.give n).station = s.station := rfl
@[simp] theorem State.give_config (n : Notice) : (s.give n).config = s.config := rfl
@[simp] theorem State.give_locked (n : Notice) : (s.give n).locked = s.locked := rfl
@[simp] theorem State.give_probe (n : Notice) : (s.give n).probe = s.probe := rfl
@[simp] theorem State.give_membership (n : Notice) : (s.give n).membership = s.membership := rfl
@[simp] theorem State.give_drainPending (n : Notice) : (s.give n).drainPending = s.drainPending := rfl
@[simp] theorem State.give_access (n : Notice) : (s.give n).access = s.access := rfl
@[simp] theorem State.give_completion (n : Notice) : (s.give n).completion = s.completion := rfl
@[simp] theorem State.give_hold (n : Notice) : (s.give n).hold = s.hold := rfl
@[simp] theorem State.give_intEnable (n : Notice) : (s.give n).intEnable = s.intEnable := rfl
@[simp] theorem State.give_commandWord (n : Notice) : (s.give n).commandWord = s.commandWord := rfl
@[simp] theorem State.give_result (n : Notice) : (s.give n).result = s.result := rfl
@[simp] theorem State.give_notices (n : Notice) : (s.give n).notices = placeNotice s.notices n := rfl
@[simp] theorem State.give_lineRec (n : Notice) (l : Nat) : (s.give n).lineRec l = s.lineRec l := rfl
@[simp] theorem State.give_slot (n : Notice) (j : SlotNo) : (s.give n).slot j = s.slot j := rfl
@[simp] theorem State.give_byteAt (n : Notice) (a : Nat) : (s.give n).byteAt a = s.byteAt a := rfl
@[simp] theorem State.give_lineBytes (n : Notice) (l : Nat) : (s.give n).lineBytes l = s.lineBytes l := rfl
@[simp] theorem State.give_lineCode (n : Notice) (l : Nat) : (s.give n).lineCode l = s.lineCode l := rfl
@[simp] theorem State.give_updateSlots (n : Notice) : (s.give n).updateSlots = s.updateSlots := rfl
@[simp] theorem State.give_inWindow (n : Notice) (l : Nat) : (s.give n).inWindow l = s.inWindow l := rfl
@[simp] theorem State.give_isHeld (n : Notice) (l : Nat) : (s.give n).isHeld l = s.isHeld l := rfl

/-! ## complete -/

@[simp] theorem State.complete_pending (ok : Bool) (ld : Option Word) : (s.complete ok ld).pending = s.pending := rfl
@[simp] theorem State.complete_now (ok : Bool) (ld : Option Word) : (s.complete ok ld).now = s.now := rfl
@[simp] theorem State.complete_freeCount (ok : Bool) (ld : Option Word) :
    (s.complete ok ld).freeCount = s.freeCount := rfl
@[simp] theorem State.complete_resetCount (ok : Bool) (ld : Option Word) :
    (s.complete ok ld).resetCount = s.resetCount := rfl
@[simp] theorem State.complete_phase (ok : Bool) (ld : Option Word) : (s.complete ok ld).phase = s.phase := rfl
@[simp] theorem State.complete_mem (ok : Bool) (ld : Option Word) : (s.complete ok ld).mem = s.mem := rfl
@[simp] theorem State.complete_codes (ok : Bool) (ld : Option Word) : (s.complete ok ld).codes = s.codes := rfl
@[simp] theorem State.complete_lines (ok : Bool) (ld : Option Word) : (s.complete ok ld).lines = s.lines := rfl
@[simp] theorem State.complete_query (ok : Bool) (ld : Option Word) : (s.complete ok ld).query = s.query := rfl
@[simp] theorem State.complete_applyQueue (ok : Bool) (ld : Option Word) :
    (s.complete ok ld).applyQueue = s.applyQueue := rfl
@[simp] theorem State.complete_receiving (ok : Bool) (ld : Option Word) :
    (s.complete ok ld).receiving = s.receiving := rfl
@[simp] theorem State.complete_carrier (ok : Bool) (ld : Option Word) : (s.complete ok ld).carrier = s.carrier := rfl
@[simp] theorem State.complete_postList (ok : Bool) (ld : Option Word) : (s.complete ok ld).postList = s.postList := rfl
@[simp] theorem State.complete_slots (ok : Bool) (ld : Option Word) : (s.complete ok ld).slots = s.slots := rfl
@[simp] theorem State.complete_dueCount (ok : Bool) (ld : Option Word) : (s.complete ok ld).dueCount = s.dueCount := rfl
@[simp] theorem State.complete_build (ok : Bool) (ld : Option Word) : (s.complete ok ld).build = s.build := rfl
@[simp] theorem State.complete_repairList (ok : Bool) (ld : Option Word) :
    (s.complete ok ld).repairList = s.repairList := rfl
@[simp] theorem State.complete_answerQueue (ok : Bool) (ld : Option Word) :
    (s.complete ok ld).answerQueue = s.answerQueue := rfl
@[simp] theorem State.complete_sweep (ok : Bool) (ld : Option Word) : (s.complete ok ld).sweep = s.sweep := rfl
@[simp] theorem State.complete_fifo (ok : Bool) (ld : Option Word) : (s.complete ok ld).fifo = s.fifo := rfl
@[simp] theorem State.complete_place (ok : Bool) (ld : Option Word) : (s.complete ok ld).place = s.place := rfl
@[simp] theorem State.complete_sending (ok : Bool) (ld : Option Word) : (s.complete ok ld).sending = s.sending := rfl
@[simp] theorem State.complete_linkMode (ok : Bool) (ld : Option Word) : (s.complete ok ld).linkMode = s.linkMode := rfl
@[simp] theorem State.complete_switchAsked (ok : Bool) (ld : Option Word) :
    (s.complete ok ld).switchAsked = s.switchAsked := rfl
@[simp] theorem State.complete_station (ok : Bool) (ld : Option Word) : (s.complete ok ld).station = s.station := rfl
@[simp] theorem State.complete_config (ok : Bool) (ld : Option Word) : (s.complete ok ld).config = s.config := rfl
@[simp] theorem State.complete_locked (ok : Bool) (ld : Option Word) : (s.complete ok ld).locked = s.locked := rfl
@[simp] theorem State.complete_probe (ok : Bool) (ld : Option Word) : (s.complete ok ld).probe = s.probe := rfl
@[simp] theorem State.complete_membership (ok : Bool) (ld : Option Word) :
    (s.complete ok ld).membership = s.membership := rfl
@[simp] theorem State.complete_drainPending (ok : Bool) (ld : Option Word) :
    (s.complete ok ld).drainPending = s.drainPending := rfl
@[simp] theorem State.complete_access (ok : Bool) (ld : Option Word) : (s.complete ok ld).access = none := rfl
@[simp] theorem State.complete_completion (ok : Bool) (ld : Option Word) :
    (s.complete ok ld).completion = some ⟨ok, ld⟩ := rfl
@[simp] theorem State.complete_hold (ok : Bool) (ld : Option Word) : (s.complete ok ld).hold = s.hold := rfl
@[simp] theorem State.complete_intEnable (ok : Bool) (ld : Option Word) :
    (s.complete ok ld).intEnable = s.intEnable := rfl
@[simp] theorem State.complete_commandWord (ok : Bool) (ld : Option Word) :
    (s.complete ok ld).commandWord = s.commandWord := rfl
@[simp] theorem State.complete_result (ok : Bool) (ld : Option Word) : (s.complete ok ld).result = s.result := rfl
@[simp] theorem State.complete_notices (ok : Bool) (ld : Option Word) : (s.complete ok ld).notices = s.notices := rfl
@[simp] theorem State.complete_lineRec (ok : Bool) (ld : Option Word) (l : Nat) :
    (s.complete ok ld).lineRec l = s.lineRec l := rfl
@[simp] theorem State.complete_slot (ok : Bool) (ld : Option Word) (j : SlotNo) :
    (s.complete ok ld).slot j = s.slot j := rfl
@[simp] theorem State.complete_byteAt (ok : Bool) (ld : Option Word) (a : Nat) :
    (s.complete ok ld).byteAt a = s.byteAt a := rfl
@[simp] theorem State.complete_lineBytes (ok : Bool) (ld : Option Word) (l : Nat) :
    (s.complete ok ld).lineBytes l = s.lineBytes l := rfl
@[simp] theorem State.complete_lineCode (ok : Bool) (ld : Option Word) (l : Nat) :
    (s.complete ok ld).lineCode l = s.lineCode l := rfl
@[simp] theorem State.complete_updateSlots (ok : Bool) (ld : Option Word) :
    (s.complete ok ld).updateSlots = s.updateSlots := rfl
@[simp] theorem State.complete_inWindow (ok : Bool) (ld : Option Word) (l : Nat) :
    (s.complete ok ld).inWindow l = s.inWindow l := rfl
@[simp] theorem State.complete_isHeld (ok : Bool) (ld : Option Word) (l : Nat) :
    (s.complete ok ld).isHeld l = s.isHeld l := rfl

/-! ## unlistLine -/

@[simp] theorem State.unlistLine_pending (line : Nat) : (s.unlistLine line).pending = s.pending := rfl
@[simp] theorem State.unlistLine_now (line : Nat) : (s.unlistLine line).now = s.now := rfl
@[simp] theorem State.unlistLine_freeCount (line : Nat) : (s.unlistLine line).freeCount = s.freeCount := rfl
@[simp] theorem State.unlistLine_resetCount (line : Nat) : (s.unlistLine line).resetCount = s.resetCount := rfl
@[simp] theorem State.unlistLine_phase (line : Nat) : (s.unlistLine line).phase = s.phase := rfl
@[simp] theorem State.unlistLine_mem (line : Nat) : (s.unlistLine line).mem = s.mem := rfl
@[simp] theorem State.unlistLine_codes (line : Nat) : (s.unlistLine line).codes = s.codes := rfl
@[simp] theorem State.unlistLine_query (line : Nat) : (s.unlistLine line).query = s.query := rfl
@[simp] theorem State.unlistLine_applyQueue (line : Nat) : (s.unlistLine line).applyQueue = s.applyQueue := rfl
@[simp] theorem State.unlistLine_receiving (line : Nat) : (s.unlistLine line).receiving = s.receiving := rfl
@[simp] theorem State.unlistLine_carrier (line : Nat) : (s.unlistLine line).carrier = s.carrier := rfl
@[simp] theorem State.unlistLine_postList (line : Nat) : (s.unlistLine line).postList = s.postList := rfl
@[simp] theorem State.unlistLine_slots (line : Nat) : (s.unlistLine line).slots = s.slots := rfl
@[simp] theorem State.unlistLine_dueCount (line : Nat) : (s.unlistLine line).dueCount = s.dueCount := rfl
@[simp] theorem State.unlistLine_build (line : Nat) : (s.unlistLine line).build = s.build := rfl
@[simp] theorem State.unlistLine_repairList (line : Nat) :
    (s.unlistLine line).repairList = s.repairList.filter fun e => e.line != line := rfl
@[simp] theorem State.unlistLine_answerQueue (line : Nat) : (s.unlistLine line).answerQueue = s.answerQueue := rfl
@[simp] theorem State.unlistLine_sweep (line : Nat) : (s.unlistLine line).sweep = s.sweep := rfl
@[simp] theorem State.unlistLine_fifo (line : Nat) : (s.unlistLine line).fifo = s.fifo := rfl
@[simp] theorem State.unlistLine_place (line : Nat) : (s.unlistLine line).place = s.place := rfl
@[simp] theorem State.unlistLine_sending (line : Nat) : (s.unlistLine line).sending = s.sending := rfl
@[simp] theorem State.unlistLine_linkMode (line : Nat) : (s.unlistLine line).linkMode = s.linkMode := rfl
@[simp] theorem State.unlistLine_switchAsked (line : Nat) : (s.unlistLine line).switchAsked = s.switchAsked := rfl
@[simp] theorem State.unlistLine_station (line : Nat) : (s.unlistLine line).station = s.station := rfl
@[simp] theorem State.unlistLine_config (line : Nat) : (s.unlistLine line).config = s.config := rfl
@[simp] theorem State.unlistLine_locked (line : Nat) : (s.unlistLine line).locked = s.locked := rfl
@[simp] theorem State.unlistLine_probe (line : Nat) : (s.unlistLine line).probe = s.probe := rfl
@[simp] theorem State.unlistLine_membership (line : Nat) : (s.unlistLine line).membership = s.membership := rfl
@[simp] theorem State.unlistLine_drainPending (line : Nat) : (s.unlistLine line).drainPending = s.drainPending := rfl
@[simp] theorem State.unlistLine_access (line : Nat) : (s.unlistLine line).access = s.access := rfl
@[simp] theorem State.unlistLine_completion (line : Nat) : (s.unlistLine line).completion = s.completion := rfl
@[simp] theorem State.unlistLine_hold (line : Nat) : (s.unlistLine line).hold = s.hold := rfl
@[simp] theorem State.unlistLine_intEnable (line : Nat) : (s.unlistLine line).intEnable = s.intEnable := rfl
@[simp] theorem State.unlistLine_commandWord (line : Nat) : (s.unlistLine line).commandWord = s.commandWord := rfl
@[simp] theorem State.unlistLine_result (line : Nat) : (s.unlistLine line).result = s.result := rfl
@[simp] theorem State.unlistLine_notices (line : Nat) : (s.unlistLine line).notices = s.notices := rfl
@[simp] theorem State.unlistLine_slot (line : Nat) (j : SlotNo) : (s.unlistLine line).slot j = s.slot j := rfl
@[simp] theorem State.unlistLine_byteAt (line : Nat) (a : Nat) : (s.unlistLine line).byteAt a = s.byteAt a := rfl
@[simp] theorem State.unlistLine_lineBytes (line : Nat) (l : Nat) :
    (s.unlistLine line).lineBytes l = s.lineBytes l := rfl
@[simp] theorem State.unlistLine_lineCode (line : Nat) (l : Nat) : (s.unlistLine line).lineCode l = s.lineCode l := rfl
@[simp] theorem State.unlistLine_updateSlots (line : Nat) : (s.unlistLine line).updateSlots = s.updateSlots := rfl
@[simp] theorem State.unlistLine_inWindow (line : Nat) (l : Nat) : (s.unlistLine line).inWindow l = s.inWindow l := rfl
@[simp] theorem State.unlistLine_isHeld (line : Nat) (l : Nat) : (s.unlistLine line).isHeld l = s.isHeld l := rfl

/-! ## unlistAll -/

@[simp] theorem State.unlistAll_pending : s.unlistAll.pending = s.pending := rfl
@[simp] theorem State.unlistAll_now : s.unlistAll.now = s.now := rfl
@[simp] theorem State.unlistAll_freeCount : s.unlistAll.freeCount = s.freeCount := rfl
@[simp] theorem State.unlistAll_resetCount : s.unlistAll.resetCount = s.resetCount := rfl
@[simp] theorem State.unlistAll_phase : s.unlistAll.phase = s.phase := rfl
@[simp] theorem State.unlistAll_mem : s.unlistAll.mem = s.mem := rfl
@[simp] theorem State.unlistAll_codes : s.unlistAll.codes = s.codes := rfl
@[simp] theorem State.unlistAll_query : s.unlistAll.query = s.query := rfl
@[simp] theorem State.unlistAll_applyQueue : s.unlistAll.applyQueue = s.applyQueue := rfl
@[simp] theorem State.unlistAll_receiving : s.unlistAll.receiving = s.receiving := rfl
@[simp] theorem State.unlistAll_carrier : s.unlistAll.carrier = s.carrier := rfl
@[simp] theorem State.unlistAll_postList : s.unlistAll.postList = s.postList := rfl
@[simp] theorem State.unlistAll_slots : s.unlistAll.slots = s.slots := rfl
@[simp] theorem State.unlistAll_dueCount : s.unlistAll.dueCount = s.dueCount := rfl
@[simp] theorem State.unlistAll_build : s.unlistAll.build = s.build := rfl
@[simp] theorem State.unlistAll_repairList : s.unlistAll.repairList = [] := rfl
@[simp] theorem State.unlistAll_answerQueue : s.unlistAll.answerQueue = s.answerQueue := rfl
@[simp] theorem State.unlistAll_sweep : s.unlistAll.sweep = s.sweep := rfl
@[simp] theorem State.unlistAll_fifo : s.unlistAll.fifo = s.fifo := rfl
@[simp] theorem State.unlistAll_place : s.unlistAll.place = s.place := rfl
@[simp] theorem State.unlistAll_sending : s.unlistAll.sending = s.sending := rfl
@[simp] theorem State.unlistAll_linkMode : s.unlistAll.linkMode = s.linkMode := rfl
@[simp] theorem State.unlistAll_switchAsked : s.unlistAll.switchAsked = s.switchAsked := rfl
@[simp] theorem State.unlistAll_station : s.unlistAll.station = s.station := rfl
@[simp] theorem State.unlistAll_config : s.unlistAll.config = s.config := rfl
@[simp] theorem State.unlistAll_locked : s.unlistAll.locked = s.locked := rfl
@[simp] theorem State.unlistAll_probe : s.unlistAll.probe = s.probe := rfl
@[simp] theorem State.unlistAll_membership : s.unlistAll.membership = s.membership := rfl
@[simp] theorem State.unlistAll_drainPending : s.unlistAll.drainPending = s.drainPending := rfl
@[simp] theorem State.unlistAll_access : s.unlistAll.access = s.access := rfl
@[simp] theorem State.unlistAll_completion : s.unlistAll.completion = s.completion := rfl
@[simp] theorem State.unlistAll_hold : s.unlistAll.hold = s.hold := rfl
@[simp] theorem State.unlistAll_intEnable : s.unlistAll.intEnable = s.intEnable := rfl
@[simp] theorem State.unlistAll_commandWord : s.unlistAll.commandWord = s.commandWord := rfl
@[simp] theorem State.unlistAll_result : s.unlistAll.result = s.result := rfl
@[simp] theorem State.unlistAll_notices : s.unlistAll.notices = s.notices := rfl
@[simp] theorem State.unlistAll_slot (j : SlotNo) : s.unlistAll.slot j = s.slot j := rfl
@[simp] theorem State.unlistAll_byteAt (a : Nat) : s.unlistAll.byteAt a = s.byteAt a := rfl
@[simp] theorem State.unlistAll_lineBytes (l : Nat) : s.unlistAll.lineBytes l = s.lineBytes l := rfl
@[simp] theorem State.unlistAll_lineCode (l : Nat) : s.unlistAll.lineCode l = s.lineCode l := rfl
@[simp] theorem State.unlistAll_updateSlots : s.unlistAll.updateSlots = s.updateSlots := rfl
@[simp] theorem State.unlistAll_inWindow (l : Nat) : s.unlistAll.inWindow l = s.inWindow l := rfl
@[simp] theorem State.unlistAll_isHeld (l : Nat) : s.unlistAll.isHeld l = s.isHeld l := rfl

/-! ## setSlot -/

@[simp] theorem State.setSlot_pending (i : SlotNo) (x : Slot) : (s.setSlot i x).pending = s.pending := rfl
@[simp] theorem State.setSlot_now (i : SlotNo) (x : Slot) : (s.setSlot i x).now = s.now := rfl
@[simp] theorem State.setSlot_freeCount (i : SlotNo) (x : Slot) : (s.setSlot i x).freeCount = s.freeCount := rfl
@[simp] theorem State.setSlot_resetCount (i : SlotNo) (x : Slot) : (s.setSlot i x).resetCount = s.resetCount := rfl
@[simp] theorem State.setSlot_phase (i : SlotNo) (x : Slot) : (s.setSlot i x).phase = s.phase := rfl
@[simp] theorem State.setSlot_mem (i : SlotNo) (x : Slot) : (s.setSlot i x).mem = s.mem := rfl
@[simp] theorem State.setSlot_codes (i : SlotNo) (x : Slot) : (s.setSlot i x).codes = s.codes := rfl
@[simp] theorem State.setSlot_lines (i : SlotNo) (x : Slot) : (s.setSlot i x).lines = s.lines := rfl
@[simp] theorem State.setSlot_query (i : SlotNo) (x : Slot) : (s.setSlot i x).query = s.query := rfl
@[simp] theorem State.setSlot_applyQueue (i : SlotNo) (x : Slot) : (s.setSlot i x).applyQueue = s.applyQueue := rfl
@[simp] theorem State.setSlot_receiving (i : SlotNo) (x : Slot) : (s.setSlot i x).receiving = s.receiving := rfl
@[simp] theorem State.setSlot_carrier (i : SlotNo) (x : Slot) : (s.setSlot i x).carrier = s.carrier := rfl
@[simp] theorem State.setSlot_postList (i : SlotNo) (x : Slot) : (s.setSlot i x).postList = s.postList := rfl
@[simp] theorem State.setSlot_slots (i : SlotNo) (x : Slot) : (s.setSlot i x).slots = s.slots.set i x := rfl
@[simp] theorem State.setSlot_dueCount (i : SlotNo) (x : Slot) : (s.setSlot i x).dueCount = s.dueCount := rfl
@[simp] theorem State.setSlot_build (i : SlotNo) (x : Slot) : (s.setSlot i x).build = s.build := rfl
@[simp] theorem State.setSlot_repairList (i : SlotNo) (x : Slot) : (s.setSlot i x).repairList = s.repairList := rfl
@[simp] theorem State.setSlot_answerQueue (i : SlotNo) (x : Slot) : (s.setSlot i x).answerQueue = s.answerQueue := rfl
@[simp] theorem State.setSlot_sweep (i : SlotNo) (x : Slot) : (s.setSlot i x).sweep = s.sweep := rfl
@[simp] theorem State.setSlot_fifo (i : SlotNo) (x : Slot) : (s.setSlot i x).fifo = s.fifo := rfl
@[simp] theorem State.setSlot_place (i : SlotNo) (x : Slot) : (s.setSlot i x).place = s.place := rfl
@[simp] theorem State.setSlot_sending (i : SlotNo) (x : Slot) : (s.setSlot i x).sending = s.sending := rfl
@[simp] theorem State.setSlot_linkMode (i : SlotNo) (x : Slot) : (s.setSlot i x).linkMode = s.linkMode := rfl
@[simp] theorem State.setSlot_switchAsked (i : SlotNo) (x : Slot) : (s.setSlot i x).switchAsked = s.switchAsked := rfl
@[simp] theorem State.setSlot_station (i : SlotNo) (x : Slot) : (s.setSlot i x).station = s.station := rfl
@[simp] theorem State.setSlot_config (i : SlotNo) (x : Slot) : (s.setSlot i x).config = s.config := rfl
@[simp] theorem State.setSlot_locked (i : SlotNo) (x : Slot) : (s.setSlot i x).locked = s.locked := rfl
@[simp] theorem State.setSlot_probe (i : SlotNo) (x : Slot) : (s.setSlot i x).probe = s.probe := rfl
@[simp] theorem State.setSlot_membership (i : SlotNo) (x : Slot) : (s.setSlot i x).membership = s.membership := rfl
@[simp] theorem State.setSlot_drainPending (i : SlotNo) (x : Slot) :
    (s.setSlot i x).drainPending = s.drainPending := rfl
@[simp] theorem State.setSlot_access (i : SlotNo) (x : Slot) : (s.setSlot i x).access = s.access := rfl
@[simp] theorem State.setSlot_completion (i : SlotNo) (x : Slot) : (s.setSlot i x).completion = s.completion := rfl
@[simp] theorem State.setSlot_hold (i : SlotNo) (x : Slot) : (s.setSlot i x).hold = s.hold := rfl
@[simp] theorem State.setSlot_intEnable (i : SlotNo) (x : Slot) : (s.setSlot i x).intEnable = s.intEnable := rfl
@[simp] theorem State.setSlot_commandWord (i : SlotNo) (x : Slot) : (s.setSlot i x).commandWord = s.commandWord := rfl
@[simp] theorem State.setSlot_result (i : SlotNo) (x : Slot) : (s.setSlot i x).result = s.result := rfl
@[simp] theorem State.setSlot_notices (i : SlotNo) (x : Slot) : (s.setSlot i x).notices = s.notices := rfl
@[simp] theorem State.setSlot_lineRec (i : SlotNo) (x : Slot) (l : Nat) : (s.setSlot i x).lineRec l = s.lineRec l := rfl
@[simp] theorem State.setSlot_byteAt (i : SlotNo) (x : Slot) (a : Nat) : (s.setSlot i x).byteAt a = s.byteAt a := rfl
@[simp] theorem State.setSlot_lineBytes (i : SlotNo) (x : Slot) (l : Nat) :
    (s.setSlot i x).lineBytes l = s.lineBytes l := rfl
@[simp] theorem State.setSlot_lineCode (i : SlotNo) (x : Slot) (l : Nat) :
    (s.setSlot i x).lineCode l = s.lineCode l := rfl
@[simp] theorem State.setSlot_inWindow (i : SlotNo) (x : Slot) (l : Nat) :
    (s.setSlot i x).inWindow l = s.inWindow l := rfl
@[simp] theorem State.setSlot_isHeld (i : SlotNo) (x : Slot) (l : Nat) : (s.setSlot i x).isHeld l = s.isHeld l := rfl

/-! ## freeSlot -/

@[simp] theorem State.freeSlot_pending (i : SlotNo) : (s.freeSlot i).pending = s.pending := rfl
@[simp] theorem State.freeSlot_now (i : SlotNo) : (s.freeSlot i).now = s.now := rfl
@[simp] theorem State.freeSlot_freeCount (i : SlotNo) : (s.freeSlot i).freeCount = s.freeCount := rfl
@[simp] theorem State.freeSlot_resetCount (i : SlotNo) : (s.freeSlot i).resetCount = s.resetCount := rfl
@[simp] theorem State.freeSlot_phase (i : SlotNo) : (s.freeSlot i).phase = s.phase := rfl
@[simp] theorem State.freeSlot_mem (i : SlotNo) : (s.freeSlot i).mem = s.mem := rfl
@[simp] theorem State.freeSlot_codes (i : SlotNo) : (s.freeSlot i).codes = s.codes := rfl
@[simp] theorem State.freeSlot_lines (i : SlotNo) : (s.freeSlot i).lines = s.lines := rfl
@[simp] theorem State.freeSlot_query (i : SlotNo) : (s.freeSlot i).query = s.query := rfl
@[simp] theorem State.freeSlot_applyQueue (i : SlotNo) : (s.freeSlot i).applyQueue = s.applyQueue := rfl
@[simp] theorem State.freeSlot_receiving (i : SlotNo) : (s.freeSlot i).receiving = s.receiving := rfl
@[simp] theorem State.freeSlot_carrier (i : SlotNo) : (s.freeSlot i).carrier = s.carrier := rfl
@[simp] theorem State.freeSlot_postList (i : SlotNo) : (s.freeSlot i).postList = s.postList := rfl
@[simp] theorem State.freeSlot_dueCount (i : SlotNo) : (s.freeSlot i).dueCount = s.dueCount := rfl
@[simp] theorem State.freeSlot_build (i : SlotNo) : (s.freeSlot i).build = s.build := rfl
@[simp] theorem State.freeSlot_repairList (i : SlotNo) : (s.freeSlot i).repairList = s.repairList := rfl
@[simp] theorem State.freeSlot_answerQueue (i : SlotNo) : (s.freeSlot i).answerQueue = s.answerQueue := rfl
@[simp] theorem State.freeSlot_sweep (i : SlotNo) : (s.freeSlot i).sweep = s.sweep := rfl
@[simp] theorem State.freeSlot_fifo (i : SlotNo) : (s.freeSlot i).fifo = s.fifo := rfl
@[simp] theorem State.freeSlot_place (i : SlotNo) : (s.freeSlot i).place = s.place := rfl
@[simp] theorem State.freeSlot_sending (i : SlotNo) : (s.freeSlot i).sending = s.sending := rfl
@[simp] theorem State.freeSlot_linkMode (i : SlotNo) : (s.freeSlot i).linkMode = s.linkMode := rfl
@[simp] theorem State.freeSlot_switchAsked (i : SlotNo) : (s.freeSlot i).switchAsked = s.switchAsked := rfl
@[simp] theorem State.freeSlot_station (i : SlotNo) : (s.freeSlot i).station = s.station := rfl
@[simp] theorem State.freeSlot_config (i : SlotNo) : (s.freeSlot i).config = s.config := rfl
@[simp] theorem State.freeSlot_locked (i : SlotNo) : (s.freeSlot i).locked = s.locked := rfl
@[simp] theorem State.freeSlot_probe (i : SlotNo) : (s.freeSlot i).probe = s.probe := rfl
@[simp] theorem State.freeSlot_membership (i : SlotNo) : (s.freeSlot i).membership = s.membership := rfl
@[simp] theorem State.freeSlot_drainPending (i : SlotNo) : (s.freeSlot i).drainPending = s.drainPending := rfl
@[simp] theorem State.freeSlot_access (i : SlotNo) : (s.freeSlot i).access = s.access := rfl
@[simp] theorem State.freeSlot_completion (i : SlotNo) : (s.freeSlot i).completion = s.completion := rfl
@[simp] theorem State.freeSlot_hold (i : SlotNo) : (s.freeSlot i).hold = s.hold := rfl
@[simp] theorem State.freeSlot_intEnable (i : SlotNo) : (s.freeSlot i).intEnable = s.intEnable := rfl
@[simp] theorem State.freeSlot_commandWord (i : SlotNo) : (s.freeSlot i).commandWord = s.commandWord := rfl
@[simp] theorem State.freeSlot_result (i : SlotNo) : (s.freeSlot i).result = s.result := rfl
@[simp] theorem State.freeSlot_notices (i : SlotNo) : (s.freeSlot i).notices = s.notices := rfl
@[simp] theorem State.freeSlot_lineRec (i : SlotNo) (l : Nat) : (s.freeSlot i).lineRec l = s.lineRec l := rfl
@[simp] theorem State.freeSlot_byteAt (i : SlotNo) (a : Nat) : (s.freeSlot i).byteAt a = s.byteAt a := rfl
@[simp] theorem State.freeSlot_lineBytes (i : SlotNo) (l : Nat) : (s.freeSlot i).lineBytes l = s.lineBytes l := rfl
@[simp] theorem State.freeSlot_lineCode (i : SlotNo) (l : Nat) : (s.freeSlot i).lineCode l = s.lineCode l := rfl
@[simp] theorem State.freeSlot_inWindow (i : SlotNo) (l : Nat) : (s.freeSlot i).inWindow l = s.inWindow l := rfl
@[simp] theorem State.freeSlot_isHeld (i : SlotNo) (l : Nat) : (s.freeSlot i).isHeld l = s.isHeld l := rfl

/-! ## freeRepairSlot -/

@[simp] theorem State.freeRepairSlot_pending (line : Nat) : (s.freeRepairSlot line).pending = s.pending := rfl
@[simp] theorem State.freeRepairSlot_now (line : Nat) : (s.freeRepairSlot line).now = s.now := rfl
@[simp] theorem State.freeRepairSlot_freeCount (line : Nat) : (s.freeRepairSlot line).freeCount = s.freeCount := rfl
@[simp] theorem State.freeRepairSlot_resetCount (line : Nat) : (s.freeRepairSlot line).resetCount = s.resetCount := rfl
@[simp] theorem State.freeRepairSlot_phase (line : Nat) : (s.freeRepairSlot line).phase = s.phase := rfl
@[simp] theorem State.freeRepairSlot_mem (line : Nat) : (s.freeRepairSlot line).mem = s.mem := rfl
@[simp] theorem State.freeRepairSlot_codes (line : Nat) : (s.freeRepairSlot line).codes = s.codes := rfl
@[simp] theorem State.freeRepairSlot_lines (line : Nat) : (s.freeRepairSlot line).lines = s.lines := rfl
@[simp] theorem State.freeRepairSlot_query (line : Nat) : (s.freeRepairSlot line).query = s.query := rfl
@[simp] theorem State.freeRepairSlot_applyQueue (line : Nat) : (s.freeRepairSlot line).applyQueue = s.applyQueue := rfl
@[simp] theorem State.freeRepairSlot_receiving (line : Nat) : (s.freeRepairSlot line).receiving = s.receiving := rfl
@[simp] theorem State.freeRepairSlot_carrier (line : Nat) : (s.freeRepairSlot line).carrier = s.carrier := rfl
@[simp] theorem State.freeRepairSlot_postList (line : Nat) : (s.freeRepairSlot line).postList = s.postList := rfl
@[simp] theorem State.freeRepairSlot_dueCount (line : Nat) : (s.freeRepairSlot line).dueCount = s.dueCount := rfl
@[simp] theorem State.freeRepairSlot_build (line : Nat) : (s.freeRepairSlot line).build = s.build := rfl
@[simp] theorem State.freeRepairSlot_repairList (line : Nat) : (s.freeRepairSlot line).repairList = s.repairList := rfl
@[simp] theorem State.freeRepairSlot_answerQueue (line : Nat) :
    (s.freeRepairSlot line).answerQueue = s.answerQueue := rfl
@[simp] theorem State.freeRepairSlot_sweep (line : Nat) : (s.freeRepairSlot line).sweep = s.sweep := rfl
@[simp] theorem State.freeRepairSlot_fifo (line : Nat) : (s.freeRepairSlot line).fifo = s.fifo := rfl
@[simp] theorem State.freeRepairSlot_place (line : Nat) : (s.freeRepairSlot line).place = s.place := rfl
@[simp] theorem State.freeRepairSlot_sending (line : Nat) : (s.freeRepairSlot line).sending = s.sending := rfl
@[simp] theorem State.freeRepairSlot_linkMode (line : Nat) : (s.freeRepairSlot line).linkMode = s.linkMode := rfl
@[simp] theorem State.freeRepairSlot_switchAsked (line : Nat) :
    (s.freeRepairSlot line).switchAsked = s.switchAsked := rfl
@[simp] theorem State.freeRepairSlot_station (line : Nat) : (s.freeRepairSlot line).station = s.station := rfl
@[simp] theorem State.freeRepairSlot_config (line : Nat) : (s.freeRepairSlot line).config = s.config := rfl
@[simp] theorem State.freeRepairSlot_locked (line : Nat) : (s.freeRepairSlot line).locked = s.locked := rfl
@[simp] theorem State.freeRepairSlot_probe (line : Nat) : (s.freeRepairSlot line).probe = s.probe := rfl
@[simp] theorem State.freeRepairSlot_membership (line : Nat) : (s.freeRepairSlot line).membership = s.membership := rfl
@[simp] theorem State.freeRepairSlot_drainPending (line : Nat) :
    (s.freeRepairSlot line).drainPending = s.drainPending := rfl
@[simp] theorem State.freeRepairSlot_access (line : Nat) : (s.freeRepairSlot line).access = s.access := rfl
@[simp] theorem State.freeRepairSlot_completion (line : Nat) : (s.freeRepairSlot line).completion = s.completion := rfl
@[simp] theorem State.freeRepairSlot_hold (line : Nat) : (s.freeRepairSlot line).hold = s.hold := rfl
@[simp] theorem State.freeRepairSlot_intEnable (line : Nat) : (s.freeRepairSlot line).intEnable = s.intEnable := rfl
@[simp] theorem State.freeRepairSlot_commandWord (line : Nat) :
    (s.freeRepairSlot line).commandWord = s.commandWord := rfl
@[simp] theorem State.freeRepairSlot_result (line : Nat) : (s.freeRepairSlot line).result = s.result := rfl
@[simp] theorem State.freeRepairSlot_notices (line : Nat) : (s.freeRepairSlot line).notices = s.notices := rfl
@[simp] theorem State.freeRepairSlot_lineRec (line : Nat) (l : Nat) :
    (s.freeRepairSlot line).lineRec l = s.lineRec l := rfl
@[simp] theorem State.freeRepairSlot_byteAt (line : Nat) (a : Nat) :
    (s.freeRepairSlot line).byteAt a = s.byteAt a := rfl
@[simp] theorem State.freeRepairSlot_lineBytes (line : Nat) (l : Nat) :
    (s.freeRepairSlot line).lineBytes l = s.lineBytes l := rfl
@[simp] theorem State.freeRepairSlot_lineCode (line : Nat) (l : Nat) :
    (s.freeRepairSlot line).lineCode l = s.lineCode l := rfl
@[simp] theorem State.freeRepairSlot_inWindow (line : Nat) (l : Nat) :
    (s.freeRepairSlot line).inWindow l = s.inWindow l := rfl
@[simp] theorem State.freeRepairSlot_isHeld (line : Nat) (l : Nat) :
    (s.freeRepairSlot line).isHeld l = s.isHeld l := rfl

/-! ## makeDue -/

@[simp] theorem State.makeDue_pending (i : SlotNo) (u : SlotUse) (kind : TxKind) (n : Nat) :
    (s.makeDue i u kind n).pending = s.pending := rfl
@[simp] theorem State.makeDue_now (i : SlotNo) (u : SlotUse) (kind : TxKind) (n : Nat) :
    (s.makeDue i u kind n).now = s.now := rfl
@[simp] theorem State.makeDue_freeCount (i : SlotNo) (u : SlotUse) (kind : TxKind) (n : Nat) :
    (s.makeDue i u kind n).freeCount = s.freeCount := rfl
@[simp] theorem State.makeDue_resetCount (i : SlotNo) (u : SlotUse) (kind : TxKind) (n : Nat) :
    (s.makeDue i u kind n).resetCount = s.resetCount := rfl
@[simp] theorem State.makeDue_phase (i : SlotNo) (u : SlotUse) (kind : TxKind) (n : Nat) :
    (s.makeDue i u kind n).phase = s.phase := rfl
@[simp] theorem State.makeDue_mem (i : SlotNo) (u : SlotUse) (kind : TxKind) (n : Nat) :
    (s.makeDue i u kind n).mem = s.mem := rfl
@[simp] theorem State.makeDue_codes (i : SlotNo) (u : SlotUse) (kind : TxKind) (n : Nat) :
    (s.makeDue i u kind n).codes = s.codes := rfl
@[simp] theorem State.makeDue_lines (i : SlotNo) (u : SlotUse) (kind : TxKind) (n : Nat) :
    (s.makeDue i u kind n).lines = s.lines := rfl
@[simp] theorem State.makeDue_query (i : SlotNo) (u : SlotUse) (kind : TxKind) (n : Nat) :
    (s.makeDue i u kind n).query = s.query := rfl
@[simp] theorem State.makeDue_applyQueue (i : SlotNo) (u : SlotUse) (kind : TxKind) (n : Nat) :
    (s.makeDue i u kind n).applyQueue = s.applyQueue := rfl
@[simp] theorem State.makeDue_receiving (i : SlotNo) (u : SlotUse) (kind : TxKind) (n : Nat) :
    (s.makeDue i u kind n).receiving = s.receiving := rfl
@[simp] theorem State.makeDue_carrier (i : SlotNo) (u : SlotUse) (kind : TxKind) (n : Nat) :
    (s.makeDue i u kind n).carrier = s.carrier := rfl
@[simp] theorem State.makeDue_postList (i : SlotNo) (u : SlotUse) (kind : TxKind) (n : Nat) :
    (s.makeDue i u kind n).postList = s.postList := rfl
@[simp] theorem State.makeDue_dueCount (i : SlotNo) (u : SlotUse) (kind : TxKind) (n : Nat) :
    (s.makeDue i u kind n).dueCount = s.dueCount + 1 := rfl
@[simp] theorem State.makeDue_build (i : SlotNo) (u : SlotUse) (kind : TxKind) (n : Nat) :
    (s.makeDue i u kind n).build = s.build := rfl
@[simp] theorem State.makeDue_repairList (i : SlotNo) (u : SlotUse) (kind : TxKind) (n : Nat) :
    (s.makeDue i u kind n).repairList = s.repairList := rfl
@[simp] theorem State.makeDue_answerQueue (i : SlotNo) (u : SlotUse) (kind : TxKind) (n : Nat) :
    (s.makeDue i u kind n).answerQueue = s.answerQueue := rfl
@[simp] theorem State.makeDue_sweep (i : SlotNo) (u : SlotUse) (kind : TxKind) (n : Nat) :
    (s.makeDue i u kind n).sweep = s.sweep := rfl
@[simp] theorem State.makeDue_fifo (i : SlotNo) (u : SlotUse) (kind : TxKind) (n : Nat) :
    (s.makeDue i u kind n).fifo = s.fifo := rfl
@[simp] theorem State.makeDue_place (i : SlotNo) (u : SlotUse) (kind : TxKind) (n : Nat) :
    (s.makeDue i u kind n).place = s.place := rfl
@[simp] theorem State.makeDue_sending (i : SlotNo) (u : SlotUse) (kind : TxKind) (n : Nat) :
    (s.makeDue i u kind n).sending = s.sending := rfl
@[simp] theorem State.makeDue_linkMode (i : SlotNo) (u : SlotUse) (kind : TxKind) (n : Nat) :
    (s.makeDue i u kind n).linkMode = s.linkMode := rfl
@[simp] theorem State.makeDue_switchAsked (i : SlotNo) (u : SlotUse) (kind : TxKind) (n : Nat) :
    (s.makeDue i u kind n).switchAsked = s.switchAsked := rfl
@[simp] theorem State.makeDue_station (i : SlotNo) (u : SlotUse) (kind : TxKind) (n : Nat) :
    (s.makeDue i u kind n).station = s.station := rfl
@[simp] theorem State.makeDue_config (i : SlotNo) (u : SlotUse) (kind : TxKind) (n : Nat) :
    (s.makeDue i u kind n).config = s.config := rfl
@[simp] theorem State.makeDue_locked (i : SlotNo) (u : SlotUse) (kind : TxKind) (n : Nat) :
    (s.makeDue i u kind n).locked = s.locked := rfl
@[simp] theorem State.makeDue_probe (i : SlotNo) (u : SlotUse) (kind : TxKind) (n : Nat) :
    (s.makeDue i u kind n).probe = s.probe := rfl
@[simp] theorem State.makeDue_membership (i : SlotNo) (u : SlotUse) (kind : TxKind) (n : Nat) :
    (s.makeDue i u kind n).membership = s.membership := rfl
@[simp] theorem State.makeDue_drainPending (i : SlotNo) (u : SlotUse) (kind : TxKind) (n : Nat) :
    (s.makeDue i u kind n).drainPending = s.drainPending := rfl
@[simp] theorem State.makeDue_access (i : SlotNo) (u : SlotUse) (kind : TxKind) (n : Nat) :
    (s.makeDue i u kind n).access = s.access := rfl
@[simp] theorem State.makeDue_completion (i : SlotNo) (u : SlotUse) (kind : TxKind) (n : Nat) :
    (s.makeDue i u kind n).completion = s.completion := rfl
@[simp] theorem State.makeDue_hold (i : SlotNo) (u : SlotUse) (kind : TxKind) (n : Nat) :
    (s.makeDue i u kind n).hold = s.hold := rfl
@[simp] theorem State.makeDue_intEnable (i : SlotNo) (u : SlotUse) (kind : TxKind) (n : Nat) :
    (s.makeDue i u kind n).intEnable = s.intEnable := rfl
@[simp] theorem State.makeDue_commandWord (i : SlotNo) (u : SlotUse) (kind : TxKind) (n : Nat) :
    (s.makeDue i u kind n).commandWord = s.commandWord := rfl
@[simp] theorem State.makeDue_result (i : SlotNo) (u : SlotUse) (kind : TxKind) (n : Nat) :
    (s.makeDue i u kind n).result = s.result := rfl
@[simp] theorem State.makeDue_notices (i : SlotNo) (u : SlotUse) (kind : TxKind) (n : Nat) :
    (s.makeDue i u kind n).notices = s.notices := rfl
@[simp] theorem State.makeDue_lineRec (i : SlotNo) (u : SlotUse) (kind : TxKind) (n : Nat) (l : Nat) :
    (s.makeDue i u kind n).lineRec l = s.lineRec l := rfl
@[simp] theorem State.makeDue_byteAt (i : SlotNo) (u : SlotUse) (kind : TxKind) (n : Nat) (a : Nat) :
    (s.makeDue i u kind n).byteAt a = s.byteAt a := rfl
@[simp] theorem State.makeDue_lineBytes (i : SlotNo) (u : SlotUse) (kind : TxKind) (n : Nat) (l : Nat) :
    (s.makeDue i u kind n).lineBytes l = s.lineBytes l := rfl
@[simp] theorem State.makeDue_lineCode (i : SlotNo) (u : SlotUse) (kind : TxKind) (n : Nat) (l : Nat) :
    (s.makeDue i u kind n).lineCode l = s.lineCode l := rfl
@[simp] theorem State.makeDue_inWindow (i : SlotNo) (u : SlotUse) (kind : TxKind) (n : Nat) (l : Nat) :
    (s.makeDue i u kind n).inWindow l = s.inWindow l := rfl
@[simp] theorem State.makeDue_isHeld (i : SlotNo) (u : SlotUse) (kind : TxKind) (n : Nat) (l : Nat) :
    (s.makeDue i u kind n).isHeld l = s.isHeld l := rfl

/-! ## unpost -/

@[simp] theorem State.unpost_pending (line : Nat) : (s.unpost line).pending = s.pending := rfl
@[simp] theorem State.unpost_now (line : Nat) : (s.unpost line).now = s.now := rfl
@[simp] theorem State.unpost_freeCount (line : Nat) : (s.unpost line).freeCount = s.freeCount := rfl
@[simp] theorem State.unpost_resetCount (line : Nat) : (s.unpost line).resetCount = s.resetCount := rfl
@[simp] theorem State.unpost_phase (line : Nat) : (s.unpost line).phase = s.phase := rfl
@[simp] theorem State.unpost_mem (line : Nat) : (s.unpost line).mem = s.mem := rfl
@[simp] theorem State.unpost_codes (line : Nat) : (s.unpost line).codes = s.codes := rfl
@[simp] theorem State.unpost_lines (line : Nat) : (s.unpost line).lines = s.lines := rfl
@[simp] theorem State.unpost_query (line : Nat) : (s.unpost line).query = s.query := rfl
@[simp] theorem State.unpost_applyQueue (line : Nat) : (s.unpost line).applyQueue = s.applyQueue := rfl
@[simp] theorem State.unpost_receiving (line : Nat) : (s.unpost line).receiving = s.receiving := rfl
@[simp] theorem State.unpost_carrier (line : Nat) : (s.unpost line).carrier = s.carrier := rfl
@[simp] theorem State.unpost_postList (line : Nat) : (s.unpost line).postList = s.postList.filter (· != line) := rfl
@[simp] theorem State.unpost_slots (line : Nat) : (s.unpost line).slots = s.slots := rfl
@[simp] theorem State.unpost_dueCount (line : Nat) : (s.unpost line).dueCount = s.dueCount := rfl
@[simp] theorem State.unpost_build (line : Nat) : (s.unpost line).build = s.build := rfl
@[simp] theorem State.unpost_repairList (line : Nat) : (s.unpost line).repairList = s.repairList := rfl
@[simp] theorem State.unpost_answerQueue (line : Nat) : (s.unpost line).answerQueue = s.answerQueue := rfl
@[simp] theorem State.unpost_sweep (line : Nat) : (s.unpost line).sweep = s.sweep := rfl
@[simp] theorem State.unpost_fifo (line : Nat) : (s.unpost line).fifo = s.fifo := rfl
@[simp] theorem State.unpost_place (line : Nat) : (s.unpost line).place = s.place := rfl
@[simp] theorem State.unpost_sending (line : Nat) : (s.unpost line).sending = s.sending := rfl
@[simp] theorem State.unpost_linkMode (line : Nat) : (s.unpost line).linkMode = s.linkMode := rfl
@[simp] theorem State.unpost_switchAsked (line : Nat) : (s.unpost line).switchAsked = s.switchAsked := rfl
@[simp] theorem State.unpost_station (line : Nat) : (s.unpost line).station = s.station := rfl
@[simp] theorem State.unpost_config (line : Nat) : (s.unpost line).config = s.config := rfl
@[simp] theorem State.unpost_locked (line : Nat) : (s.unpost line).locked = s.locked := rfl
@[simp] theorem State.unpost_probe (line : Nat) : (s.unpost line).probe = s.probe := rfl
@[simp] theorem State.unpost_membership (line : Nat) : (s.unpost line).membership = s.membership := rfl
@[simp] theorem State.unpost_drainPending (line : Nat) : (s.unpost line).drainPending = s.drainPending := rfl
@[simp] theorem State.unpost_access (line : Nat) : (s.unpost line).access = s.access := rfl
@[simp] theorem State.unpost_completion (line : Nat) : (s.unpost line).completion = s.completion := rfl
@[simp] theorem State.unpost_hold (line : Nat) : (s.unpost line).hold = s.hold := rfl
@[simp] theorem State.unpost_intEnable (line : Nat) : (s.unpost line).intEnable = s.intEnable := rfl
@[simp] theorem State.unpost_commandWord (line : Nat) : (s.unpost line).commandWord = s.commandWord := rfl
@[simp] theorem State.unpost_result (line : Nat) : (s.unpost line).result = s.result := rfl
@[simp] theorem State.unpost_notices (line : Nat) : (s.unpost line).notices = s.notices := rfl
@[simp] theorem State.unpost_lineRec (line : Nat) (l : Nat) : (s.unpost line).lineRec l = s.lineRec l := rfl
@[simp] theorem State.unpost_slot (line : Nat) (j : SlotNo) : (s.unpost line).slot j = s.slot j := rfl
@[simp] theorem State.unpost_byteAt (line : Nat) (a : Nat) : (s.unpost line).byteAt a = s.byteAt a := rfl
@[simp] theorem State.unpost_lineBytes (line : Nat) (l : Nat) : (s.unpost line).lineBytes l = s.lineBytes l := rfl
@[simp] theorem State.unpost_lineCode (line : Nat) (l : Nat) : (s.unpost line).lineCode l = s.lineCode l := rfl
@[simp] theorem State.unpost_updateSlots (line : Nat) : (s.unpost line).updateSlots = s.updateSlots := rfl
@[simp] theorem State.unpost_inWindow (line : Nat) (l : Nat) : (s.unpost line).inWindow l = s.inWindow l := rfl
@[simp] theorem State.unpost_isHeld (line : Nat) (l : Nat) : (s.unpost line).isHeld l = s.isHeld l := rfl

/-! ## reach -/

@[simp] theorem State.reach_pending (t : Nat) : (s.reach t).pending = s.pending := rfl
@[simp] theorem State.reach_now (t : Nat) : (s.reach t).now = max s.now t := rfl
@[simp] theorem State.reach_freeCount (t : Nat) : (s.reach t).freeCount = s.freeCount := rfl
@[simp] theorem State.reach_resetCount (t : Nat) : (s.reach t).resetCount = s.resetCount := rfl
@[simp] theorem State.reach_phase (t : Nat) : (s.reach t).phase = s.phase := rfl
@[simp] theorem State.reach_mem (t : Nat) : (s.reach t).mem = s.mem := rfl
@[simp] theorem State.reach_codes (t : Nat) : (s.reach t).codes = s.codes := rfl
@[simp] theorem State.reach_lines (t : Nat) : (s.reach t).lines = s.lines := rfl
@[simp] theorem State.reach_query (t : Nat) : (s.reach t).query = s.query := rfl
@[simp] theorem State.reach_applyQueue (t : Nat) : (s.reach t).applyQueue = s.applyQueue := rfl
@[simp] theorem State.reach_receiving (t : Nat) : (s.reach t).receiving = s.receiving := rfl
@[simp] theorem State.reach_carrier (t : Nat) : (s.reach t).carrier = s.carrier := rfl
@[simp] theorem State.reach_postList (t : Nat) : (s.reach t).postList = s.postList := rfl
@[simp] theorem State.reach_slots (t : Nat) : (s.reach t).slots = s.slots := rfl
@[simp] theorem State.reach_dueCount (t : Nat) : (s.reach t).dueCount = s.dueCount := rfl
@[simp] theorem State.reach_build (t : Nat) : (s.reach t).build = s.build := rfl
@[simp] theorem State.reach_repairList (t : Nat) : (s.reach t).repairList = s.repairList := rfl
@[simp] theorem State.reach_answerQueue (t : Nat) : (s.reach t).answerQueue = s.answerQueue := rfl
@[simp] theorem State.reach_sweep (t : Nat) : (s.reach t).sweep = s.sweep := rfl
@[simp] theorem State.reach_fifo (t : Nat) : (s.reach t).fifo = s.fifo := rfl
@[simp] theorem State.reach_place (t : Nat) : (s.reach t).place = s.place := rfl
@[simp] theorem State.reach_sending (t : Nat) : (s.reach t).sending = s.sending := rfl
@[simp] theorem State.reach_linkMode (t : Nat) : (s.reach t).linkMode = s.linkMode := rfl
@[simp] theorem State.reach_switchAsked (t : Nat) : (s.reach t).switchAsked = s.switchAsked := rfl
@[simp] theorem State.reach_station (t : Nat) : (s.reach t).station = s.station := rfl
@[simp] theorem State.reach_config (t : Nat) : (s.reach t).config = s.config := rfl
@[simp] theorem State.reach_locked (t : Nat) : (s.reach t).locked = s.locked := rfl
@[simp] theorem State.reach_probe (t : Nat) : (s.reach t).probe = s.probe := rfl
@[simp] theorem State.reach_membership (t : Nat) : (s.reach t).membership = s.membership := rfl
@[simp] theorem State.reach_drainPending (t : Nat) : (s.reach t).drainPending = s.drainPending := rfl
@[simp] theorem State.reach_access (t : Nat) : (s.reach t).access = s.access := rfl
@[simp] theorem State.reach_completion (t : Nat) : (s.reach t).completion = s.completion := rfl
@[simp] theorem State.reach_hold (t : Nat) : (s.reach t).hold = s.hold := rfl
@[simp] theorem State.reach_intEnable (t : Nat) : (s.reach t).intEnable = s.intEnable := rfl
@[simp] theorem State.reach_commandWord (t : Nat) : (s.reach t).commandWord = s.commandWord := rfl
@[simp] theorem State.reach_result (t : Nat) : (s.reach t).result = s.result := rfl
@[simp] theorem State.reach_notices (t : Nat) : (s.reach t).notices = s.notices := rfl
@[simp] theorem State.reach_lineRec (t : Nat) (l : Nat) : (s.reach t).lineRec l = s.lineRec l := rfl
@[simp] theorem State.reach_slot (t : Nat) (j : SlotNo) : (s.reach t).slot j = s.slot j := rfl
@[simp] theorem State.reach_byteAt (t : Nat) (a : Nat) : (s.reach t).byteAt a = s.byteAt a := rfl
@[simp] theorem State.reach_lineBytes (t : Nat) (l : Nat) : (s.reach t).lineBytes l = s.lineBytes l := rfl
@[simp] theorem State.reach_lineCode (t : Nat) (l : Nat) : (s.reach t).lineCode l = s.lineCode l := rfl
@[simp] theorem State.reach_updateSlots (t : Nat) : (s.reach t).updateSlots = s.updateSlots := rfl
@[simp] theorem State.reach_inWindow (t : Nat) (l : Nat) : (s.reach t).inWindow l = s.inWindow l := rfl
@[simp] theorem State.reach_isHeld (t : Nat) (l : Nat) : (s.reach t).isHeld l = s.isHeld l := rfl

/-! ## answer -/

@[simp] theorem State.answer_pending (code : BitVec 8) (arg : BitVec 16) (res : CommandResult) :
    (s.answer code arg res).pending = s.pending := rfl
@[simp] theorem State.answer_now (code : BitVec 8) (arg : BitVec 16) (res : CommandResult) :
    (s.answer code arg res).now = s.now := rfl
@[simp] theorem State.answer_freeCount (code : BitVec 8) (arg : BitVec 16) (res : CommandResult) :
    (s.answer code arg res).freeCount = s.freeCount := rfl
@[simp] theorem State.answer_resetCount (code : BitVec 8) (arg : BitVec 16) (res : CommandResult) :
    (s.answer code arg res).resetCount = s.resetCount := rfl
@[simp] theorem State.answer_phase (code : BitVec 8) (arg : BitVec 16) (res : CommandResult) :
    (s.answer code arg res).phase = s.phase := rfl
@[simp] theorem State.answer_mem (code : BitVec 8) (arg : BitVec 16) (res : CommandResult) :
    (s.answer code arg res).mem = s.mem := rfl
@[simp] theorem State.answer_codes (code : BitVec 8) (arg : BitVec 16) (res : CommandResult) :
    (s.answer code arg res).codes = s.codes := rfl
@[simp] theorem State.answer_lines (code : BitVec 8) (arg : BitVec 16) (res : CommandResult) :
    (s.answer code arg res).lines = s.lines := rfl
@[simp] theorem State.answer_query (code : BitVec 8) (arg : BitVec 16) (res : CommandResult) :
    (s.answer code arg res).query = s.query := rfl
@[simp] theorem State.answer_applyQueue (code : BitVec 8) (arg : BitVec 16) (res : CommandResult) :
    (s.answer code arg res).applyQueue = s.applyQueue := rfl
@[simp] theorem State.answer_receiving (code : BitVec 8) (arg : BitVec 16) (res : CommandResult) :
    (s.answer code arg res).receiving = s.receiving := rfl
@[simp] theorem State.answer_carrier (code : BitVec 8) (arg : BitVec 16) (res : CommandResult) :
    (s.answer code arg res).carrier = s.carrier := rfl
@[simp] theorem State.answer_postList (code : BitVec 8) (arg : BitVec 16) (res : CommandResult) :
    (s.answer code arg res).postList = s.postList := rfl
@[simp] theorem State.answer_slots (code : BitVec 8) (arg : BitVec 16) (res : CommandResult) :
    (s.answer code arg res).slots = s.slots := rfl
@[simp] theorem State.answer_dueCount (code : BitVec 8) (arg : BitVec 16) (res : CommandResult) :
    (s.answer code arg res).dueCount = s.dueCount := rfl
@[simp] theorem State.answer_build (code : BitVec 8) (arg : BitVec 16) (res : CommandResult) :
    (s.answer code arg res).build = s.build := rfl
@[simp] theorem State.answer_repairList (code : BitVec 8) (arg : BitVec 16) (res : CommandResult) :
    (s.answer code arg res).repairList = s.repairList := rfl
@[simp] theorem State.answer_answerQueue (code : BitVec 8) (arg : BitVec 16) (res : CommandResult) :
    (s.answer code arg res).answerQueue = s.answerQueue := rfl
@[simp] theorem State.answer_sweep (code : BitVec 8) (arg : BitVec 16) (res : CommandResult) :
    (s.answer code arg res).sweep = s.sweep := rfl
@[simp] theorem State.answer_fifo (code : BitVec 8) (arg : BitVec 16) (res : CommandResult) :
    (s.answer code arg res).fifo = s.fifo := rfl
@[simp] theorem State.answer_place (code : BitVec 8) (arg : BitVec 16) (res : CommandResult) :
    (s.answer code arg res).place = s.place := rfl
@[simp] theorem State.answer_sending (code : BitVec 8) (arg : BitVec 16) (res : CommandResult) :
    (s.answer code arg res).sending = s.sending := rfl
@[simp] theorem State.answer_linkMode (code : BitVec 8) (arg : BitVec 16) (res : CommandResult) :
    (s.answer code arg res).linkMode = s.linkMode := rfl
@[simp] theorem State.answer_switchAsked (code : BitVec 8) (arg : BitVec 16) (res : CommandResult) :
    (s.answer code arg res).switchAsked = s.switchAsked := rfl
@[simp] theorem State.answer_station (code : BitVec 8) (arg : BitVec 16) (res : CommandResult) :
    (s.answer code arg res).station = s.station := rfl
@[simp] theorem State.answer_config (code : BitVec 8) (arg : BitVec 16) (res : CommandResult) :
    (s.answer code arg res).config = s.config := rfl
@[simp] theorem State.answer_locked (code : BitVec 8) (arg : BitVec 16) (res : CommandResult) :
    (s.answer code arg res).locked = s.locked := rfl
@[simp] theorem State.answer_probe (code : BitVec 8) (arg : BitVec 16) (res : CommandResult) :
    (s.answer code arg res).probe = s.probe := rfl
@[simp] theorem State.answer_membership (code : BitVec 8) (arg : BitVec 16) (res : CommandResult) :
    (s.answer code arg res).membership = s.membership := rfl
@[simp] theorem State.answer_drainPending (code : BitVec 8) (arg : BitVec 16) (res : CommandResult) :
    (s.answer code arg res).drainPending = s.drainPending := rfl
@[simp] theorem State.answer_access (code : BitVec 8) (arg : BitVec 16) (res : CommandResult) :
    (s.answer code arg res).access = none := rfl
@[simp] theorem State.answer_completion (code : BitVec 8) (arg : BitVec 16) (res : CommandResult) :
    (s.answer code arg res).completion = some ⟨true, none⟩ := rfl
@[simp] theorem State.answer_hold (code : BitVec 8) (arg : BitVec 16) (res : CommandResult) :
    (s.answer code arg res).hold = s.hold := rfl
@[simp] theorem State.answer_intEnable (code : BitVec 8) (arg : BitVec 16) (res : CommandResult) :
    (s.answer code arg res).intEnable = s.intEnable := rfl
@[simp] theorem State.answer_commandWord (code : BitVec 8) (arg : BitVec 16) (res : CommandResult) :
    (s.answer code arg res).commandWord = commandValue code arg := rfl
@[simp] theorem State.answer_result (code : BitVec 8) (arg : BitVec 16) (res : CommandResult) :
    (s.answer code arg res).result = res := rfl
@[simp] theorem State.answer_notices (code : BitVec 8) (arg : BitVec 16) (res : CommandResult) :
    (s.answer code arg res).notices = s.notices := rfl
@[simp] theorem State.answer_lineRec (code : BitVec 8) (arg : BitVec 16) (res : CommandResult) (l : Nat) :
    (s.answer code arg res).lineRec l = s.lineRec l := rfl
@[simp] theorem State.answer_slot (code : BitVec 8) (arg : BitVec 16) (res : CommandResult) (j : SlotNo) :
    (s.answer code arg res).slot j = s.slot j := rfl
@[simp] theorem State.answer_byteAt (code : BitVec 8) (arg : BitVec 16) (res : CommandResult) (a : Nat) :
    (s.answer code arg res).byteAt a = s.byteAt a := rfl
@[simp] theorem State.answer_lineBytes (code : BitVec 8) (arg : BitVec 16) (res : CommandResult) (l : Nat) :
    (s.answer code arg res).lineBytes l = s.lineBytes l := rfl
@[simp] theorem State.answer_lineCode (code : BitVec 8) (arg : BitVec 16) (res : CommandResult) (l : Nat) :
    (s.answer code arg res).lineCode l = s.lineCode l := rfl
@[simp] theorem State.answer_updateSlots (code : BitVec 8) (arg : BitVec 16) (res : CommandResult) :
    (s.answer code arg res).updateSlots = s.updateSlots := rfl
@[simp] theorem State.answer_inWindow (code : BitVec 8) (arg : BitVec 16) (res : CommandResult) (l : Nat) :
    (s.answer code arg res).inWindow l = s.inWindow l := rfl
@[simp] theorem State.answer_isHeld (code : BitVec 8) (arg : BitVec 16) (res : CommandResult) (l : Nat) :
    (s.answer code arg res).isHeld l = s.isHeld l := rfl

/-! ## popApply -/

@[simp] theorem State.popApply_pending (e : ApplyEntry) (rest : List ApplyEntry) :
    (s.popApply e rest).pending = s.pending := rfl
@[simp] theorem State.popApply_now (e : ApplyEntry) (rest : List ApplyEntry) : (s.popApply e rest).now = s.now := rfl
@[simp] theorem State.popApply_freeCount (e : ApplyEntry) (rest : List ApplyEntry) :
    (s.popApply e rest).freeCount = s.freeCount := rfl
@[simp] theorem State.popApply_resetCount (e : ApplyEntry) (rest : List ApplyEntry) :
    (s.popApply e rest).resetCount = s.resetCount := rfl
@[simp] theorem State.popApply_phase (e : ApplyEntry) (rest : List ApplyEntry) :
    (s.popApply e rest).phase = s.phase := rfl
@[simp] theorem State.popApply_mem (e : ApplyEntry) (rest : List ApplyEntry) : (s.popApply e rest).mem = s.mem := rfl
@[simp] theorem State.popApply_codes (e : ApplyEntry) (rest : List ApplyEntry) :
    (s.popApply e rest).codes = s.codes := rfl
@[simp] theorem State.popApply_query (e : ApplyEntry) (rest : List ApplyEntry) :
    (s.popApply e rest).query = s.query := rfl
@[simp] theorem State.popApply_applyQueue (e : ApplyEntry) (rest : List ApplyEntry) :
    (s.popApply e rest).applyQueue = rest := rfl
@[simp] theorem State.popApply_receiving (e : ApplyEntry) (rest : List ApplyEntry) :
    (s.popApply e rest).receiving = s.receiving := rfl
@[simp] theorem State.popApply_carrier (e : ApplyEntry) (rest : List ApplyEntry) :
    (s.popApply e rest).carrier = s.carrier := rfl
@[simp] theorem State.popApply_postList (e : ApplyEntry) (rest : List ApplyEntry) :
    (s.popApply e rest).postList = s.postList := rfl
@[simp] theorem State.popApply_slots (e : ApplyEntry) (rest : List ApplyEntry) :
    (s.popApply e rest).slots = s.slots := rfl
@[simp] theorem State.popApply_dueCount (e : ApplyEntry) (rest : List ApplyEntry) :
    (s.popApply e rest).dueCount = s.dueCount := rfl
@[simp] theorem State.popApply_build (e : ApplyEntry) (rest : List ApplyEntry) :
    (s.popApply e rest).build = s.build := rfl
@[simp] theorem State.popApply_repairList (e : ApplyEntry) (rest : List ApplyEntry) :
    (s.popApply e rest).repairList = s.repairList := rfl
@[simp] theorem State.popApply_answerQueue (e : ApplyEntry) (rest : List ApplyEntry) :
    (s.popApply e rest).answerQueue = s.answerQueue := rfl
@[simp] theorem State.popApply_sweep (e : ApplyEntry) (rest : List ApplyEntry) :
    (s.popApply e rest).sweep = s.sweep := rfl
@[simp] theorem State.popApply_fifo (e : ApplyEntry) (rest : List ApplyEntry) : (s.popApply e rest).fifo = s.fifo := rfl
@[simp] theorem State.popApply_place (e : ApplyEntry) (rest : List ApplyEntry) :
    (s.popApply e rest).place = s.place := rfl
@[simp] theorem State.popApply_sending (e : ApplyEntry) (rest : List ApplyEntry) :
    (s.popApply e rest).sending = s.sending := rfl
@[simp] theorem State.popApply_linkMode (e : ApplyEntry) (rest : List ApplyEntry) :
    (s.popApply e rest).linkMode = s.linkMode := rfl
@[simp] theorem State.popApply_switchAsked (e : ApplyEntry) (rest : List ApplyEntry) :
    (s.popApply e rest).switchAsked = s.switchAsked := rfl
@[simp] theorem State.popApply_station (e : ApplyEntry) (rest : List ApplyEntry) :
    (s.popApply e rest).station = s.station := rfl
@[simp] theorem State.popApply_config (e : ApplyEntry) (rest : List ApplyEntry) :
    (s.popApply e rest).config = s.config := rfl
@[simp] theorem State.popApply_locked (e : ApplyEntry) (rest : List ApplyEntry) :
    (s.popApply e rest).locked = s.locked := rfl
@[simp] theorem State.popApply_probe (e : ApplyEntry) (rest : List ApplyEntry) :
    (s.popApply e rest).probe = s.probe := rfl
@[simp] theorem State.popApply_membership (e : ApplyEntry) (rest : List ApplyEntry) :
    (s.popApply e rest).membership = s.membership := rfl
@[simp] theorem State.popApply_drainPending (e : ApplyEntry) (rest : List ApplyEntry) :
    (s.popApply e rest).drainPending = s.drainPending := rfl
@[simp] theorem State.popApply_access (e : ApplyEntry) (rest : List ApplyEntry) :
    (s.popApply e rest).access = s.access := rfl
@[simp] theorem State.popApply_completion (e : ApplyEntry) (rest : List ApplyEntry) :
    (s.popApply e rest).completion = s.completion := rfl
@[simp] theorem State.popApply_hold (e : ApplyEntry) (rest : List ApplyEntry) : (s.popApply e rest).hold = s.hold := rfl
@[simp] theorem State.popApply_intEnable (e : ApplyEntry) (rest : List ApplyEntry) :
    (s.popApply e rest).intEnable = s.intEnable := rfl
@[simp] theorem State.popApply_commandWord (e : ApplyEntry) (rest : List ApplyEntry) :
    (s.popApply e rest).commandWord = s.commandWord := rfl
@[simp] theorem State.popApply_result (e : ApplyEntry) (rest : List ApplyEntry) :
    (s.popApply e rest).result = s.result := rfl
@[simp] theorem State.popApply_notices (e : ApplyEntry) (rest : List ApplyEntry) :
    (s.popApply e rest).notices = s.notices := rfl
@[simp] theorem State.popApply_slot (e : ApplyEntry) (rest : List ApplyEntry) (j : SlotNo) :
    (s.popApply e rest).slot j = s.slot j := rfl
@[simp] theorem State.popApply_byteAt (e : ApplyEntry) (rest : List ApplyEntry) (a : Nat) :
    (s.popApply e rest).byteAt a = s.byteAt a := rfl
@[simp] theorem State.popApply_lineBytes (e : ApplyEntry) (rest : List ApplyEntry) (l : Nat) :
    (s.popApply e rest).lineBytes l = s.lineBytes l := rfl
@[simp] theorem State.popApply_lineCode (e : ApplyEntry) (rest : List ApplyEntry) (l : Nat) :
    (s.popApply e rest).lineCode l = s.lineCode l := rfl
@[simp] theorem State.popApply_updateSlots (e : ApplyEntry) (rest : List ApplyEntry) :
    (s.popApply e rest).updateSlots = s.updateSlots := rfl
@[simp] theorem State.popApply_inWindow (e : ApplyEntry) (rest : List ApplyEntry) (l : Nat) :
    (s.popApply e rest).inWindow l = s.inWindow l := rfl
@[simp] theorem State.popApply_isHeld (e : ApplyEntry) (rest : List ApplyEntry) (l : Nat) :
    (s.popApply e rest).isHeld l = s.isHeld l := rfl

/-! ## queueApply -/

@[simp] theorem State.queueApply_pending (u : Update) (cause : ApplyCause) :
    (s.queueApply u cause).pending = s.pending := rfl
@[simp] theorem State.queueApply_now (u : Update) (cause : ApplyCause) : (s.queueApply u cause).now = s.now := rfl
@[simp] theorem State.queueApply_freeCount (u : Update) (cause : ApplyCause) :
    (s.queueApply u cause).freeCount = s.freeCount := rfl
@[simp] theorem State.queueApply_resetCount (u : Update) (cause : ApplyCause) :
    (s.queueApply u cause).resetCount = s.resetCount := rfl
@[simp] theorem State.queueApply_phase (u : Update) (cause : ApplyCause) : (s.queueApply u cause).phase = s.phase := rfl
@[simp] theorem State.queueApply_mem (u : Update) (cause : ApplyCause) : (s.queueApply u cause).mem = s.mem := rfl
@[simp] theorem State.queueApply_codes (u : Update) (cause : ApplyCause) : (s.queueApply u cause).codes = s.codes := rfl
@[simp] theorem State.queueApply_query (u : Update) (cause : ApplyCause) : (s.queueApply u cause).query = s.query := rfl
@[simp] theorem State.queueApply_applyQueue (u : Update) (cause : ApplyCause) :
    (s.queueApply u cause).applyQueue = s.applyQueue ++ [⟨u.line, cause, u.kind, u.stamp, u.mask, u.data⟩] := rfl
@[simp] theorem State.queueApply_receiving (u : Update) (cause : ApplyCause) :
    (s.queueApply u cause).receiving = s.receiving := rfl
@[simp] theorem State.queueApply_carrier (u : Update) (cause : ApplyCause) :
    (s.queueApply u cause).carrier = s.carrier := rfl
@[simp] theorem State.queueApply_postList (u : Update) (cause : ApplyCause) :
    (s.queueApply u cause).postList = s.postList := rfl
@[simp] theorem State.queueApply_slots (u : Update) (cause : ApplyCause) : (s.queueApply u cause).slots = s.slots := rfl
@[simp] theorem State.queueApply_dueCount (u : Update) (cause : ApplyCause) :
    (s.queueApply u cause).dueCount = s.dueCount := rfl
@[simp] theorem State.queueApply_build (u : Update) (cause : ApplyCause) : (s.queueApply u cause).build = s.build := rfl
@[simp] theorem State.queueApply_repairList (u : Update) (cause : ApplyCause) :
    (s.queueApply u cause).repairList = s.repairList := rfl
@[simp] theorem State.queueApply_answerQueue (u : Update) (cause : ApplyCause) :
    (s.queueApply u cause).answerQueue = s.answerQueue := rfl
@[simp] theorem State.queueApply_sweep (u : Update) (cause : ApplyCause) : (s.queueApply u cause).sweep = s.sweep := rfl
@[simp] theorem State.queueApply_fifo (u : Update) (cause : ApplyCause) : (s.queueApply u cause).fifo = s.fifo := rfl
@[simp] theorem State.queueApply_place (u : Update) (cause : ApplyCause) : (s.queueApply u cause).place = s.place := rfl
@[simp] theorem State.queueApply_sending (u : Update) (cause : ApplyCause) :
    (s.queueApply u cause).sending = s.sending := rfl
@[simp] theorem State.queueApply_linkMode (u : Update) (cause : ApplyCause) :
    (s.queueApply u cause).linkMode = s.linkMode := rfl
@[simp] theorem State.queueApply_switchAsked (u : Update) (cause : ApplyCause) :
    (s.queueApply u cause).switchAsked = s.switchAsked := rfl
@[simp] theorem State.queueApply_station (u : Update) (cause : ApplyCause) :
    (s.queueApply u cause).station = s.station := rfl
@[simp] theorem State.queueApply_config (u : Update) (cause : ApplyCause) :
    (s.queueApply u cause).config = s.config := rfl
@[simp] theorem State.queueApply_locked (u : Update) (cause : ApplyCause) :
    (s.queueApply u cause).locked = s.locked := rfl
@[simp] theorem State.queueApply_probe (u : Update) (cause : ApplyCause) : (s.queueApply u cause).probe = s.probe := rfl
@[simp] theorem State.queueApply_membership (u : Update) (cause : ApplyCause) :
    (s.queueApply u cause).membership = s.membership := rfl
@[simp] theorem State.queueApply_drainPending (u : Update) (cause : ApplyCause) :
    (s.queueApply u cause).drainPending = s.drainPending := rfl
@[simp] theorem State.queueApply_access (u : Update) (cause : ApplyCause) :
    (s.queueApply u cause).access = s.access := rfl
@[simp] theorem State.queueApply_completion (u : Update) (cause : ApplyCause) :
    (s.queueApply u cause).completion = s.completion := rfl
@[simp] theorem State.queueApply_hold (u : Update) (cause : ApplyCause) : (s.queueApply u cause).hold = s.hold := rfl
@[simp] theorem State.queueApply_intEnable (u : Update) (cause : ApplyCause) :
    (s.queueApply u cause).intEnable = s.intEnable := rfl
@[simp] theorem State.queueApply_commandWord (u : Update) (cause : ApplyCause) :
    (s.queueApply u cause).commandWord = s.commandWord := rfl
@[simp] theorem State.queueApply_result (u : Update) (cause : ApplyCause) :
    (s.queueApply u cause).result = s.result := rfl
@[simp] theorem State.queueApply_notices (u : Update) (cause : ApplyCause) :
    (s.queueApply u cause).notices = s.notices := rfl
@[simp] theorem State.queueApply_slot (u : Update) (cause : ApplyCause) (j : SlotNo) :
    (s.queueApply u cause).slot j = s.slot j := rfl
@[simp] theorem State.queueApply_byteAt (u : Update) (cause : ApplyCause) (a : Nat) :
    (s.queueApply u cause).byteAt a = s.byteAt a := rfl
@[simp] theorem State.queueApply_lineBytes (u : Update) (cause : ApplyCause) (l : Nat) :
    (s.queueApply u cause).lineBytes l = s.lineBytes l := rfl
@[simp] theorem State.queueApply_lineCode (u : Update) (cause : ApplyCause) (l : Nat) :
    (s.queueApply u cause).lineCode l = s.lineCode l := rfl
@[simp] theorem State.queueApply_updateSlots (u : Update) (cause : ApplyCause) :
    (s.queueApply u cause).updateSlots = s.updateSlots := rfl
@[simp] theorem State.queueApply_inWindow (u : Update) (cause : ApplyCause) (l : Nat) :
    (s.queueApply u cause).inWindow l = s.inWindow l := rfl
@[simp] theorem State.queueApply_isHeld (u : Update) (cause : ApplyCause) (l : Nat) :
    (s.queueApply u cause).isHeld l = s.isHeld l := rfl

/-! ## raiseRec -/

@[simp] theorem State.raiseRec_pending (u : Update) (content : Content) :
    (s.raiseRec u content).pending = s.pending := rfl
@[simp] theorem State.raiseRec_now (u : Update) (content : Content) : (s.raiseRec u content).now = s.now := rfl
@[simp] theorem State.raiseRec_freeCount (u : Update) (content : Content) :
    (s.raiseRec u content).freeCount = s.freeCount := rfl
@[simp] theorem State.raiseRec_resetCount (u : Update) (content : Content) :
    (s.raiseRec u content).resetCount = s.resetCount := rfl
@[simp] theorem State.raiseRec_phase (u : Update) (content : Content) : (s.raiseRec u content).phase = s.phase := rfl
@[simp] theorem State.raiseRec_mem (u : Update) (content : Content) : (s.raiseRec u content).mem = s.mem := rfl
@[simp] theorem State.raiseRec_codes (u : Update) (content : Content) : (s.raiseRec u content).codes = s.codes := rfl
@[simp] theorem State.raiseRec_query (u : Update) (content : Content) : (s.raiseRec u content).query = s.query := rfl
@[simp] theorem State.raiseRec_applyQueue (u : Update) (content : Content) :
    (s.raiseRec u content).applyQueue = s.applyQueue := rfl
@[simp] theorem State.raiseRec_receiving (u : Update) (content : Content) :
    (s.raiseRec u content).receiving = s.receiving := rfl
@[simp] theorem State.raiseRec_carrier (u : Update) (content : Content) :
    (s.raiseRec u content).carrier = s.carrier := rfl
@[simp] theorem State.raiseRec_postList (u : Update) (content : Content) :
    (s.raiseRec u content).postList = s.postList.filter (· != u.line) := rfl
@[simp] theorem State.raiseRec_slots (u : Update) (content : Content) : (s.raiseRec u content).slots = s.slots := rfl
@[simp] theorem State.raiseRec_dueCount (u : Update) (content : Content) :
    (s.raiseRec u content).dueCount = s.dueCount := rfl
@[simp] theorem State.raiseRec_build (u : Update) (content : Content) : (s.raiseRec u content).build = s.build := rfl
@[simp] theorem State.raiseRec_repairList (u : Update) (content : Content) :
    (s.raiseRec u content).repairList = s.repairList := rfl
@[simp] theorem State.raiseRec_answerQueue (u : Update) (content : Content) :
    (s.raiseRec u content).answerQueue = s.answerQueue := rfl
@[simp] theorem State.raiseRec_sweep (u : Update) (content : Content) : (s.raiseRec u content).sweep = s.sweep := rfl
@[simp] theorem State.raiseRec_fifo (u : Update) (content : Content) : (s.raiseRec u content).fifo = s.fifo := rfl
@[simp] theorem State.raiseRec_place (u : Update) (content : Content) : (s.raiseRec u content).place = s.place := rfl
@[simp] theorem State.raiseRec_sending (u : Update) (content : Content) :
    (s.raiseRec u content).sending = s.sending := rfl
@[simp] theorem State.raiseRec_linkMode (u : Update) (content : Content) :
    (s.raiseRec u content).linkMode = s.linkMode := rfl
@[simp] theorem State.raiseRec_switchAsked (u : Update) (content : Content) :
    (s.raiseRec u content).switchAsked = s.switchAsked := rfl
@[simp] theorem State.raiseRec_station (u : Update) (content : Content) :
    (s.raiseRec u content).station = s.station := rfl
@[simp] theorem State.raiseRec_config (u : Update) (content : Content) : (s.raiseRec u content).config = s.config := rfl
@[simp] theorem State.raiseRec_locked (u : Update) (content : Content) : (s.raiseRec u content).locked = s.locked := rfl
@[simp] theorem State.raiseRec_probe (u : Update) (content : Content) : (s.raiseRec u content).probe = s.probe := rfl
@[simp] theorem State.raiseRec_membership (u : Update) (content : Content) :
    (s.raiseRec u content).membership = s.membership := rfl
@[simp] theorem State.raiseRec_drainPending (u : Update) (content : Content) :
    (s.raiseRec u content).drainPending = s.drainPending := rfl
@[simp] theorem State.raiseRec_access (u : Update) (content : Content) : (s.raiseRec u content).access = s.access := rfl
@[simp] theorem State.raiseRec_completion (u : Update) (content : Content) :
    (s.raiseRec u content).completion = s.completion := rfl
@[simp] theorem State.raiseRec_hold (u : Update) (content : Content) : (s.raiseRec u content).hold = s.hold := rfl
@[simp] theorem State.raiseRec_intEnable (u : Update) (content : Content) :
    (s.raiseRec u content).intEnable = s.intEnable := rfl
@[simp] theorem State.raiseRec_commandWord (u : Update) (content : Content) :
    (s.raiseRec u content).commandWord = s.commandWord := rfl
@[simp] theorem State.raiseRec_result (u : Update) (content : Content) : (s.raiseRec u content).result = s.result := rfl
@[simp] theorem State.raiseRec_notices (u : Update) (content : Content) :
    (s.raiseRec u content).notices = s.notices := rfl
@[simp] theorem State.raiseRec_slot (u : Update) (content : Content) (j : SlotNo) :
    (s.raiseRec u content).slot j = s.slot j := rfl
@[simp] theorem State.raiseRec_byteAt (u : Update) (content : Content) (a : Nat) :
    (s.raiseRec u content).byteAt a = s.byteAt a := rfl
@[simp] theorem State.raiseRec_lineBytes (u : Update) (content : Content) (l : Nat) :
    (s.raiseRec u content).lineBytes l = s.lineBytes l := rfl
@[simp] theorem State.raiseRec_lineCode (u : Update) (content : Content) (l : Nat) :
    (s.raiseRec u content).lineCode l = s.lineCode l := rfl
@[simp] theorem State.raiseRec_updateSlots (u : Update) (content : Content) :
    (s.raiseRec u content).updateSlots = s.updateSlots := rfl
@[simp] theorem State.raiseRec_inWindow (u : Update) (content : Content) (l : Nat) :
    (s.raiseRec u content).inWindow l = s.inWindow l := rfl
@[simp] theorem State.raiseRec_isHeld (u : Update) (content : Content) (l : Nat) :
    (s.raiseRec u content).isHeld l = s.isHeld l := rfl

/-! ## transmit -/

@[simp] theorem State.transmit_pending (i : SlotNo) (u : SlotUse) : (s.transmit i u).pending = s.pending := rfl
@[simp] theorem State.transmit_now (i : SlotNo) (u : SlotUse) : (s.transmit i u).now = s.now := rfl
@[simp] theorem State.transmit_freeCount (i : SlotNo) (u : SlotUse) : (s.transmit i u).freeCount = s.freeCount := rfl
@[simp] theorem State.transmit_resetCount (i : SlotNo) (u : SlotUse) : (s.transmit i u).resetCount = s.resetCount := rfl
@[simp] theorem State.transmit_phase (i : SlotNo) (u : SlotUse) : (s.transmit i u).phase = s.phase := rfl
@[simp] theorem State.transmit_mem (i : SlotNo) (u : SlotUse) : (s.transmit i u).mem = s.mem := rfl
@[simp] theorem State.transmit_codes (i : SlotNo) (u : SlotUse) : (s.transmit i u).codes = s.codes := rfl
@[simp] theorem State.transmit_lines (i : SlotNo) (u : SlotUse) : (s.transmit i u).lines = s.lines := rfl
@[simp] theorem State.transmit_query (i : SlotNo) (u : SlotUse) : (s.transmit i u).query = s.query := rfl
@[simp] theorem State.transmit_applyQueue (i : SlotNo) (u : SlotUse) : (s.transmit i u).applyQueue = s.applyQueue := rfl
@[simp] theorem State.transmit_receiving (i : SlotNo) (u : SlotUse) : (s.transmit i u).receiving = s.receiving := rfl
@[simp] theorem State.transmit_carrier (i : SlotNo) (u : SlotUse) : (s.transmit i u).carrier = s.carrier := rfl
@[simp] theorem State.transmit_postList (i : SlotNo) (u : SlotUse) : (s.transmit i u).postList = s.postList := rfl
@[simp] theorem State.transmit_dueCount (i : SlotNo) (u : SlotUse) : (s.transmit i u).dueCount = s.dueCount := rfl
@[simp] theorem State.transmit_build (i : SlotNo) (u : SlotUse) : (s.transmit i u).build = s.build := rfl
@[simp] theorem State.transmit_repairList (i : SlotNo) (u : SlotUse) : (s.transmit i u).repairList = s.repairList := rfl
@[simp] theorem State.transmit_answerQueue (i : SlotNo) (u : SlotUse) :
    (s.transmit i u).answerQueue = s.answerQueue := rfl
@[simp] theorem State.transmit_sweep (i : SlotNo) (u : SlotUse) : (s.transmit i u).sweep = s.sweep := rfl
@[simp] theorem State.transmit_fifo (i : SlotNo) (u : SlotUse) : (s.transmit i u).fifo = s.fifo := rfl
@[simp] theorem State.transmit_place (i : SlotNo) (u : SlotUse) : (s.transmit i u).place = s.place := rfl
@[simp] theorem State.transmit_sending (i : SlotNo) (u : SlotUse) : (s.transmit i u).sending = s.sending := rfl
@[simp] theorem State.transmit_linkMode (i : SlotNo) (u : SlotUse) : (s.transmit i u).linkMode = s.linkMode := rfl
@[simp] theorem State.transmit_switchAsked (i : SlotNo) (u : SlotUse) :
    (s.transmit i u).switchAsked = s.switchAsked := rfl
@[simp] theorem State.transmit_station (i : SlotNo) (u : SlotUse) : (s.transmit i u).station = s.station := rfl
@[simp] theorem State.transmit_config (i : SlotNo) (u : SlotUse) : (s.transmit i u).config = s.config := rfl
@[simp] theorem State.transmit_locked (i : SlotNo) (u : SlotUse) : (s.transmit i u).locked = s.locked := rfl
@[simp] theorem State.transmit_probe (i : SlotNo) (u : SlotUse) : (s.transmit i u).probe = s.probe := rfl
@[simp] theorem State.transmit_membership (i : SlotNo) (u : SlotUse) : (s.transmit i u).membership = s.membership := rfl
@[simp] theorem State.transmit_drainPending (i : SlotNo) (u : SlotUse) :
    (s.transmit i u).drainPending = s.drainPending := rfl
@[simp] theorem State.transmit_access (i : SlotNo) (u : SlotUse) : (s.transmit i u).access = s.access := rfl
@[simp] theorem State.transmit_completion (i : SlotNo) (u : SlotUse) : (s.transmit i u).completion = s.completion := rfl
@[simp] theorem State.transmit_hold (i : SlotNo) (u : SlotUse) : (s.transmit i u).hold = s.hold := rfl
@[simp] theorem State.transmit_intEnable (i : SlotNo) (u : SlotUse) : (s.transmit i u).intEnable = s.intEnable := rfl
@[simp] theorem State.transmit_commandWord (i : SlotNo) (u : SlotUse) :
    (s.transmit i u).commandWord = s.commandWord := rfl
@[simp] theorem State.transmit_result (i : SlotNo) (u : SlotUse) : (s.transmit i u).result = s.result := rfl
@[simp] theorem State.transmit_notices (i : SlotNo) (u : SlotUse) : (s.transmit i u).notices = s.notices := rfl
@[simp] theorem State.transmit_lineRec (i : SlotNo) (u : SlotUse) (l : Nat) :
    (s.transmit i u).lineRec l = s.lineRec l := rfl
@[simp] theorem State.transmit_byteAt (i : SlotNo) (u : SlotUse) (a : Nat) :
    (s.transmit i u).byteAt a = s.byteAt a := rfl
@[simp] theorem State.transmit_lineBytes (i : SlotNo) (u : SlotUse) (l : Nat) :
    (s.transmit i u).lineBytes l = s.lineBytes l := rfl
@[simp] theorem State.transmit_lineCode (i : SlotNo) (u : SlotUse) (l : Nat) :
    (s.transmit i u).lineCode l = s.lineCode l := rfl
@[simp] theorem State.transmit_inWindow (i : SlotNo) (u : SlotUse) (l : Nat) :
    (s.transmit i u).inWindow l = s.inWindow l := rfl
@[simp] theorem State.transmit_isHeld (i : SlotNo) (u : SlotUse) (l : Nat) :
    (s.transmit i u).isHeld l = s.isHeld l := rfl

/-! ## handOver -/

@[simp] theorem State.handOver_pending (f : List Byte) : (s.handOver f).pending = s.pending := rfl
@[simp] theorem State.handOver_now (f : List Byte) : (s.handOver f).now = s.now := rfl
@[simp] theorem State.handOver_freeCount (f : List Byte) : (s.handOver f).freeCount = s.freeCount := rfl
@[simp] theorem State.handOver_resetCount (f : List Byte) : (s.handOver f).resetCount = s.resetCount := rfl
@[simp] theorem State.handOver_phase (f : List Byte) : (s.handOver f).phase = s.phase := rfl
@[simp] theorem State.handOver_mem (f : List Byte) : (s.handOver f).mem = s.mem := rfl
@[simp] theorem State.handOver_codes (f : List Byte) : (s.handOver f).codes = s.codes := rfl
@[simp] theorem State.handOver_lines (f : List Byte) : (s.handOver f).lines = s.lines := rfl
@[simp] theorem State.handOver_query (f : List Byte) : (s.handOver f).query = s.query := rfl
@[simp] theorem State.handOver_applyQueue (f : List Byte) : (s.handOver f).applyQueue = s.applyQueue := rfl
@[simp] theorem State.handOver_receiving (f : List Byte) : (s.handOver f).receiving = s.receiving := rfl
@[simp] theorem State.handOver_carrier (f : List Byte) : (s.handOver f).carrier = s.carrier := rfl
@[simp] theorem State.handOver_postList (f : List Byte) : (s.handOver f).postList = s.postList := rfl
@[simp] theorem State.handOver_slots (f : List Byte) : (s.handOver f).slots = s.slots := rfl
@[simp] theorem State.handOver_dueCount (f : List Byte) : (s.handOver f).dueCount = s.dueCount := rfl
@[simp] theorem State.handOver_build (f : List Byte) : (s.handOver f).build = none := rfl
@[simp] theorem State.handOver_repairList (f : List Byte) : (s.handOver f).repairList = s.repairList := rfl
@[simp] theorem State.handOver_answerQueue (f : List Byte) : (s.handOver f).answerQueue = s.answerQueue := rfl
@[simp] theorem State.handOver_sweep (f : List Byte) : (s.handOver f).sweep = s.sweep := rfl
@[simp] theorem State.handOver_fifo (f : List Byte) : (s.handOver f).fifo = s.fifo := rfl
@[simp] theorem State.handOver_place (f : List Byte) : (s.handOver f).place = some f := rfl
@[simp] theorem State.handOver_sending (f : List Byte) : (s.handOver f).sending = s.sending := rfl
@[simp] theorem State.handOver_linkMode (f : List Byte) : (s.handOver f).linkMode = s.linkMode := rfl
@[simp] theorem State.handOver_switchAsked (f : List Byte) : (s.handOver f).switchAsked = s.switchAsked := rfl
@[simp] theorem State.handOver_station (f : List Byte) : (s.handOver f).station = s.station := rfl
@[simp] theorem State.handOver_config (f : List Byte) : (s.handOver f).config = s.config := rfl
@[simp] theorem State.handOver_locked (f : List Byte) : (s.handOver f).locked = s.locked := rfl
@[simp] theorem State.handOver_probe (f : List Byte) : (s.handOver f).probe = s.probe := rfl
@[simp] theorem State.handOver_membership (f : List Byte) : (s.handOver f).membership = s.membership := rfl
@[simp] theorem State.handOver_drainPending (f : List Byte) : (s.handOver f).drainPending = s.drainPending := rfl
@[simp] theorem State.handOver_access (f : List Byte) : (s.handOver f).access = s.access := rfl
@[simp] theorem State.handOver_completion (f : List Byte) : (s.handOver f).completion = s.completion := rfl
@[simp] theorem State.handOver_hold (f : List Byte) : (s.handOver f).hold = s.hold := rfl
@[simp] theorem State.handOver_intEnable (f : List Byte) : (s.handOver f).intEnable = s.intEnable := rfl
@[simp] theorem State.handOver_commandWord (f : List Byte) : (s.handOver f).commandWord = s.commandWord := rfl
@[simp] theorem State.handOver_result (f : List Byte) : (s.handOver f).result = s.result := rfl
@[simp] theorem State.handOver_notices (f : List Byte) : (s.handOver f).notices = s.notices := rfl
@[simp] theorem State.handOver_lineRec (f : List Byte) (l : Nat) : (s.handOver f).lineRec l = s.lineRec l := rfl
@[simp] theorem State.handOver_slot (f : List Byte) (j : SlotNo) : (s.handOver f).slot j = s.slot j := rfl
@[simp] theorem State.handOver_byteAt (f : List Byte) (a : Nat) : (s.handOver f).byteAt a = s.byteAt a := rfl
@[simp] theorem State.handOver_lineBytes (f : List Byte) (l : Nat) : (s.handOver f).lineBytes l = s.lineBytes l := rfl
@[simp] theorem State.handOver_lineCode (f : List Byte) (l : Nat) : (s.handOver f).lineCode l = s.lineCode l := rfl
@[simp] theorem State.handOver_updateSlots (f : List Byte) : (s.handOver f).updateSlots = s.updateSlots := rfl
@[simp] theorem State.handOver_inWindow (f : List Byte) (l : Nat) : (s.handOver f).inWindow l = s.inWindow l := rfl
@[simp] theorem State.handOver_isHeld (f : List Byte) (l : Nat) : (s.handOver f).isHeld l = s.isHeld l := rfl

/-! ## abandonBuild -/

@[simp] theorem State.abandonBuild_pending : s.abandonBuild.pending = s.pending := rfl
@[simp] theorem State.abandonBuild_now : s.abandonBuild.now = s.now := rfl
@[simp] theorem State.abandonBuild_freeCount : s.abandonBuild.freeCount = s.freeCount := rfl
@[simp] theorem State.abandonBuild_resetCount : s.abandonBuild.resetCount = s.resetCount := rfl
@[simp] theorem State.abandonBuild_phase : s.abandonBuild.phase = s.phase := rfl
@[simp] theorem State.abandonBuild_mem : s.abandonBuild.mem = s.mem := rfl
@[simp] theorem State.abandonBuild_codes : s.abandonBuild.codes = s.codes := rfl
@[simp] theorem State.abandonBuild_lines : s.abandonBuild.lines = s.lines := rfl
@[simp] theorem State.abandonBuild_query : s.abandonBuild.query = s.query := rfl
@[simp] theorem State.abandonBuild_applyQueue : s.abandonBuild.applyQueue = s.applyQueue := rfl
@[simp] theorem State.abandonBuild_receiving : s.abandonBuild.receiving = s.receiving := rfl
@[simp] theorem State.abandonBuild_carrier : s.abandonBuild.carrier = s.carrier := rfl
@[simp] theorem State.abandonBuild_postList : s.abandonBuild.postList = s.postList := rfl
@[simp] theorem State.abandonBuild_slots : s.abandonBuild.slots = s.slots := rfl
@[simp] theorem State.abandonBuild_dueCount : s.abandonBuild.dueCount = s.dueCount := rfl
@[simp] theorem State.abandonBuild_build : s.abandonBuild.build = none := rfl
@[simp] theorem State.abandonBuild_repairList : s.abandonBuild.repairList = s.repairList := rfl
@[simp] theorem State.abandonBuild_answerQueue : s.abandonBuild.answerQueue = s.answerQueue := rfl
@[simp] theorem State.abandonBuild_sweep : s.abandonBuild.sweep = s.sweep := rfl
@[simp] theorem State.abandonBuild_fifo : s.abandonBuild.fifo = s.fifo := rfl
@[simp] theorem State.abandonBuild_place : s.abandonBuild.place = s.place := rfl
@[simp] theorem State.abandonBuild_sending : s.abandonBuild.sending = s.sending := rfl
@[simp] theorem State.abandonBuild_linkMode : s.abandonBuild.linkMode = s.linkMode := rfl
@[simp] theorem State.abandonBuild_switchAsked : s.abandonBuild.switchAsked = s.switchAsked := rfl
@[simp] theorem State.abandonBuild_station : s.abandonBuild.station = s.station := rfl
@[simp] theorem State.abandonBuild_config : s.abandonBuild.config = s.config := rfl
@[simp] theorem State.abandonBuild_locked : s.abandonBuild.locked = s.locked := rfl
@[simp] theorem State.abandonBuild_probe : s.abandonBuild.probe = s.probe := rfl
@[simp] theorem State.abandonBuild_membership : s.abandonBuild.membership = s.membership := rfl
@[simp] theorem State.abandonBuild_drainPending : s.abandonBuild.drainPending = s.drainPending := rfl
@[simp] theorem State.abandonBuild_access : s.abandonBuild.access = s.access := rfl
@[simp] theorem State.abandonBuild_completion : s.abandonBuild.completion = s.completion := rfl
@[simp] theorem State.abandonBuild_hold : s.abandonBuild.hold = s.hold := rfl
@[simp] theorem State.abandonBuild_intEnable : s.abandonBuild.intEnable = s.intEnable := rfl
@[simp] theorem State.abandonBuild_commandWord : s.abandonBuild.commandWord = s.commandWord := rfl
@[simp] theorem State.abandonBuild_result : s.abandonBuild.result = s.result := rfl
@[simp] theorem State.abandonBuild_notices : s.abandonBuild.notices = s.notices := rfl
@[simp] theorem State.abandonBuild_lineRec (l : Nat) : s.abandonBuild.lineRec l = s.lineRec l := rfl
@[simp] theorem State.abandonBuild_slot (j : SlotNo) : s.abandonBuild.slot j = s.slot j := rfl
@[simp] theorem State.abandonBuild_byteAt (a : Nat) : s.abandonBuild.byteAt a = s.byteAt a := rfl
@[simp] theorem State.abandonBuild_lineBytes (l : Nat) : s.abandonBuild.lineBytes l = s.lineBytes l := rfl
@[simp] theorem State.abandonBuild_lineCode (l : Nat) : s.abandonBuild.lineCode l = s.lineCode l := rfl
@[simp] theorem State.abandonBuild_updateSlots : s.abandonBuild.updateSlots = s.updateSlots := rfl
@[simp] theorem State.abandonBuild_inWindow (l : Nat) : s.abandonBuild.inWindow l = s.inWindow l := rfl
@[simp] theorem State.abandonBuild_isHeld (l : Nat) : s.abandonBuild.isHeld l = s.isHeld l := rfl

/-! ## endSweepStep -/

@[simp] theorem State.endSweepStep_pending : s.endSweepStep.pending = s.pending := rfl
@[simp] theorem State.endSweepStep_now : s.endSweepStep.now = s.now := rfl
@[simp] theorem State.endSweepStep_freeCount : s.endSweepStep.freeCount = s.freeCount := rfl
@[simp] theorem State.endSweepStep_resetCount : s.endSweepStep.resetCount = s.resetCount := rfl
@[simp] theorem State.endSweepStep_phase : s.endSweepStep.phase = s.phase := rfl
@[simp] theorem State.endSweepStep_mem : s.endSweepStep.mem = s.mem := rfl
@[simp] theorem State.endSweepStep_codes : s.endSweepStep.codes = s.codes := rfl
@[simp] theorem State.endSweepStep_lines : s.endSweepStep.lines = s.lines := rfl
@[simp] theorem State.endSweepStep_query : s.endSweepStep.query = s.query := rfl
@[simp] theorem State.endSweepStep_applyQueue : s.endSweepStep.applyQueue = s.applyQueue := rfl
@[simp] theorem State.endSweepStep_receiving : s.endSweepStep.receiving = s.receiving := rfl
@[simp] theorem State.endSweepStep_carrier : s.endSweepStep.carrier = s.carrier := rfl
@[simp] theorem State.endSweepStep_postList : s.endSweepStep.postList = s.postList := rfl
@[simp] theorem State.endSweepStep_slots : s.endSweepStep.slots = s.slots := rfl
@[simp] theorem State.endSweepStep_dueCount : s.endSweepStep.dueCount = s.dueCount := rfl
@[simp] theorem State.endSweepStep_build : s.endSweepStep.build = s.build := rfl
@[simp] theorem State.endSweepStep_repairList : s.endSweepStep.repairList = s.repairList := rfl
@[simp] theorem State.endSweepStep_answerQueue : s.endSweepStep.answerQueue = s.answerQueue := rfl
@[simp] theorem State.endSweepStep_fifo : s.endSweepStep.fifo = s.fifo := rfl
@[simp] theorem State.endSweepStep_place : s.endSweepStep.place = s.place := rfl
@[simp] theorem State.endSweepStep_sending : s.endSweepStep.sending = s.sending := rfl
@[simp] theorem State.endSweepStep_linkMode : s.endSweepStep.linkMode = s.linkMode := rfl
@[simp] theorem State.endSweepStep_switchAsked : s.endSweepStep.switchAsked = s.switchAsked := rfl
@[simp] theorem State.endSweepStep_station : s.endSweepStep.station = s.station := rfl
@[simp] theorem State.endSweepStep_config : s.endSweepStep.config = s.config := rfl
@[simp] theorem State.endSweepStep_locked : s.endSweepStep.locked = s.locked := rfl
@[simp] theorem State.endSweepStep_probe : s.endSweepStep.probe = s.probe := rfl
@[simp] theorem State.endSweepStep_membership : s.endSweepStep.membership = s.membership := rfl
@[simp] theorem State.endSweepStep_drainPending : s.endSweepStep.drainPending = s.drainPending := rfl
@[simp] theorem State.endSweepStep_access : s.endSweepStep.access = s.access := rfl
@[simp] theorem State.endSweepStep_completion : s.endSweepStep.completion = s.completion := rfl
@[simp] theorem State.endSweepStep_hold : s.endSweepStep.hold = s.hold := rfl
@[simp] theorem State.endSweepStep_intEnable : s.endSweepStep.intEnable = s.intEnable := rfl
@[simp] theorem State.endSweepStep_commandWord : s.endSweepStep.commandWord = s.commandWord := rfl
@[simp] theorem State.endSweepStep_result : s.endSweepStep.result = s.result := rfl
@[simp] theorem State.endSweepStep_notices : s.endSweepStep.notices = s.notices := rfl
@[simp] theorem State.endSweepStep_lineRec (l : Nat) : s.endSweepStep.lineRec l = s.lineRec l := rfl
@[simp] theorem State.endSweepStep_slot (j : SlotNo) : s.endSweepStep.slot j = s.slot j := rfl
@[simp] theorem State.endSweepStep_byteAt (a : Nat) : s.endSweepStep.byteAt a = s.byteAt a := rfl
@[simp] theorem State.endSweepStep_lineBytes (l : Nat) : s.endSweepStep.lineBytes l = s.lineBytes l := rfl
@[simp] theorem State.endSweepStep_lineCode (l : Nat) : s.endSweepStep.lineCode l = s.lineCode l := rfl
@[simp] theorem State.endSweepStep_updateSlots : s.endSweepStep.updateSlots = s.updateSlots := rfl
@[simp] theorem State.endSweepStep_inWindow (l : Nat) : s.endSweepStep.inWindow l = s.inWindow l := rfl
@[simp] theorem State.endSweepStep_isHeld (l : Nat) : s.endSweepStep.isHeld l = s.isHeld l := rfl

end Sys2Proof.Machine
end

