-- ==== Sys2Proof/Laws/Store.lean ====
section
/-! SUPPORT. Reading the Replica Store and the Line Directory after an update: bytes, check codes, line records. -/

namespace Sys2Proof.Machine

/-! ## What a read depends on -/

theorem State.uncleared_congr {s t : State} (hp : t.phase = s.phase) (line : Nat) :
    t.uncleared line = s.uncleared line := by
  unfold State.uncleared; rw [hp]

theorem State.byteAt_congr {s t : State} (hp : t.phase = s.phase) (hr : t.resetCount = s.resetCount)
    (hm : t.mem = s.mem) (a : Nat) : t.byteAt a = s.byteAt a := by
  unfold State.byteAt; rw [State.uncleared_congr hp, hr, hm]

theorem State.lineBytes_congr {s t : State} (hp : t.phase = s.phase) (hr : t.resetCount = s.resetCount)
    (hm : t.mem = s.mem) (line : Nat) : t.lineBytes line = s.lineBytes line := by
  simp only [State.lineBytes, State.byteAt_congr hp hr hm]

theorem State.lineCode_congr {s t : State} (hp : t.phase = s.phase) (hr : t.resetCount = s.resetCount)
    (hc : t.codes = s.codes) (line : Nat) : t.lineCode line = s.lineCode line := by
  unfold State.lineCode; rw [State.uncleared_congr hp, hr, hc]

theorem State.lineRec_congr {s t : State} (h : t.lines = s.lines) (line : Nat) : t.lineRec line = s.lineRec line := by
  simp only [State.lineRec, h]

@[simp] theorem State.lineBytes_length (s : State) (line : Nat) : (s.lineBytes line).length = 32 := by
  simp [State.lineBytes]

/-! ## Writes of a line's cells -/

/-- Outside the line every byte reads as before. -/
theorem State.byteAt_writeCells_outside (s : State) (line : Nat) (bytes : List Byte) (code : BitVec 16)
    (hl : bytes.length = 32) {a : Nat} (h : a / 32 ≠ line) : (s.writeCells line bytes code).byteAt a = s.byteAt a := by
  have hu : (s.writeCells line bytes code).uncleared (a / 32) = s.uncleared (a / 32) := by
    simp only [State.uncleared, State.writeCells_phase]
  have hm : Memory.read (s.writeCells line bytes code).mem a = Memory.read s.mem a := by
    rw [State.writeCells_mem]
    exact Memory.read_writeBytes_outside _ _ _ (by omega)
  simp only [State.byteAt, hu, hm, State.writeCells_resetCount]

/-- In a line that the clearing pass has left behind, each position reads as the byte written. -/
theorem State.byteAt_writeCells_inside (s : State) (line : Nat) (bytes : List Byte) (code : BitVec 16)
    (hc : s.uncleared line = false) {p : Nat} (hp : p < bytes.length) (hl : bytes.length = 32) :
    (s.writeCells line bytes code).byteAt (32 * line + p) = bytes[p] := by
  have hd : (32 * line + p) / 32 = line := by omega
  have hu : (s.writeCells line bytes code).uncleared line = false := by
    simpa only [State.uncleared, State.writeCells_phase] using hc
  simp only [State.byteAt, hd, hu, State.writeCells_mem]
  simpa using Memory.read_writeBytes_inside s.mem (32 * line) bytes hp

/-- A line that has been written and is cleared reads as the bytes written. -/
theorem State.lineBytes_writeCells_same (s : State) (line : Nat) (bytes : List Byte) (code : BitVec 16)
    (hc : s.uncleared line = false) (hl : bytes.length = 32) :
    (s.writeCells line bytes code).lineBytes line = bytes := by
  apply List.ext_getElem
  · simp [hl]
  · intro p h1 h2
    simp only [State.lineBytes, List.getElem_map, List.getElem_range]
    exact State.byteAt_writeCells_inside s line bytes code hc h2 hl

/-- Every other line reads as before. -/
theorem State.lineBytes_writeCells_other (s : State) (line : Nat) (bytes : List Byte) (code : BitVec 16)
    (hl : bytes.length = 32) {l : Nat} (h : l ≠ line) :
    (s.writeCells line bytes code).lineBytes l = s.lineBytes l := by
  simp only [State.lineBytes]
  apply List.map_congr_left
  intro p hp
  have hp : p < 32 := by simpa using hp
  exact State.byteAt_writeCells_outside s line bytes code hl (by omega)

theorem State.lineCode_writeCells_same (s : State) (line : Nat) (bytes : List Byte) (code : BitVec 16)
    (hc : s.uncleared line = false) : (s.writeCells line bytes code).lineCode line = code := by
  have hu : (s.writeCells line bytes code).uncleared line = false := by
    simpa only [State.uncleared, State.writeCells_phase] using hc
  simp only [State.lineCode, hu, State.writeCells_codes, Sparse.get_set_same]
  rfl

theorem State.lineCode_writeCells_other (s : State) (line : Nat) (bytes : List Byte) (code : BitVec 16) {l : Nat}
    (h : l ≠ line) : (s.writeCells line bytes code).lineCode l = s.lineCode l := by
  have hu : (s.writeCells line bytes code).uncleared l = s.uncleared l := by
    simp only [State.uncleared, State.writeCells_phase]
  simp only [State.lineCode, hu, State.writeCells_codes, State.writeCells_resetCount, Sparse.get_set_other _ _ _ h]

/-- A line just written with its code passes its verification (R3). -/
theorem State.checkGood_writeLine (s : State) (line : Nat) (bytes : List Byte) (hc : s.uncleared line = false)
    (hl : bytes.length = 32) : (s.writeLine line bytes).checkGood line = true := by
  simp only [State.checkGood, State.writeLine, State.lineCode_writeCells_same s line bytes _ hc,
    State.lineBytes_writeCells_same s line bytes _ hc hl, beq_self_eq_true]

/-! ## Line records -/

@[simp] theorem State.lineRec_setRec_same (s : State) (line : Nat) (r : LineRecord) :
    (s.setRec line r).lineRec line = r := by
  simp only [State.lineRec, State.setRec_lines, Sparse.get_set_same]

theorem State.lineRec_setRec_other (s : State) {line l : Nat} (r : LineRecord) (h : l ≠ line) :
    (s.setRec line r).lineRec l = s.lineRec l := by
  simp only [State.lineRec, State.setRec_lines, Sparse.get_set_other _ _ _ h]

theorem State.lineRec_setRec (s : State) (line l : Nat) (r : LineRecord) :
    (s.setRec line r).lineRec l = if l = line then r else s.lineRec l := by
  by_cases h : l = line
  · subst h; simp
  · rw [State.lineRec_setRec_other s r h, if_neg h]

/-- Emptying the Repair List takes the listed mark off every line and changes nothing else of its record (R16). -/
theorem State.lineRec_unlistAll (s : State) (h : Sparse.Wf LineRecord.reset s.lines) (l : Nat) :
    s.unlistAll.lineRec l = { s.lineRec l with listed := false } := by
  have hp := h.1
  simp only [State.lineRec, State.unlistAll]
  generalize s.lines = m at hp
  clear h
  induction m with
  | nil => rfl
  | cons x m ih =>
    obtain ⟨k, r⟩ := x
    have hc := List.pairwise_cons.1 hp
    have ih := ih hc.2
    by_cases hr : ({ r with listed := false } : LineRecord) = LineRecord.reset
    · rw [List.filterMap_cons_none (by simp [hr])]
      by_cases hl : l = k
      · subst hl
        rw [ih]
        have : Sparse.get LineRecord.reset m l = LineRecord.reset := by
          apply Sparse.get_of_not_mem
          intro v hv
          exact Nat.lt_irrefl l (hc.1 (l, v) hv)
        simp only [Sparse.get, if_true, this, hr]
        rfl
      · simp only [Sparse.get, hl, if_false]; exact ih
    · rw [List.filterMap_cons_some (b := (k, { r with listed := false })) (by simp [hr])]
      by_cases hl : l = k
      · simp [Sparse.get, hl]
      · simp only [Sparse.get, hl, if_false]; exact ih

/-! ## Slots -/

@[simp] theorem State.slot_setSlot_same (s : State) (i : SlotNo) (x : Slot) : (s.setSlot i x).slot i = x := by
  simp [State.slot, State.setSlot]

theorem State.slot_setSlot_other (s : State) {i j : SlotNo} (x : Slot) (h : j ≠ i) :
    (s.setSlot i x).slot j = s.slot j := by
  have h' : i.val ≠ j.val := fun e => h (Fin.ext e.symm)
  simp only [State.slot, State.setSlot, Fin.getElem_fin]
  exact Vector.getElem_set_ne _ _ h'

theorem State.slot_freeSlot_same (s : State) (i : SlotNo) : (s.freeSlot i).slot i = { s.slot i with use := none } := by
  simp only [State.freeSlot, State.slot_setSlot_same]

theorem State.slot_freeSlot_other (s : State) {i j : SlotNo} (h : j ≠ i) : (s.freeSlot i).slot j = s.slot j :=
  State.slot_setSlot_other s _ h

theorem State.slot_freeRepairSlot (s : State) (line : Nat) (i : SlotNo) :
    (s.freeRepairSlot line).slot i = if (s.slot i).names .repair line then { s.slot i with use := none } else s.slot i := by
  unfold State.slot State.freeRepairSlot
  simp only [Fin.getElem_fin, Vector.getElem_map]

/-! ## Notices -/

/-- Below 63 notices the queue takes the notice as given (R191). -/
theorem placeNotice_room {q : List Notice} (n : Notice) (h : q.length < 63) : placeNotice q n = q ++ [n] := by
  simp only [placeNotice, h, if_true]

/-- The 64th place takes OVERFLOW (R191). -/
theorem placeNotice_last {q : List Notice} (n : Notice) (h : q.length = 63) : placeNotice q n = q ++ [.overflow] := by
  have h' : ¬ q.length < 63 := by omega
  simp [placeNotice, h]

/-- A full queue takes nothing (R191). -/
theorem placeNotice_full {q : List Notice} (n : Notice) (h : 64 ≤ q.length) : placeNotice q n = q := by
  have h1 : ¬ q.length < 63 := by omega
  have h2 : ¬ q.length = 63 := by omega
  simp only [placeNotice, h1, h2, if_false]

theorem placeNotice_length_le {q : List Notice} (n : Notice) (h : q.length ≤ 64) : (placeNotice q n).length ≤ 64 := by
  unfold placeNotice
  split
  · simp; omega
  · split
    · simp; omega
    · exact h

/-- A full queue ends in OVERFLOW (R191). -/
theorem placeNotice_overflow {q : List Notice} (n : Notice)
    (h : q.length = 64 → q.getLast? = some .overflow) (h64 : (placeNotice q n).length = 64) :
    (placeNotice q n).getLast? = some .overflow := by
  unfold placeNotice at h64 ⊢
  split at h64
  · simp at h64; omega
  · split at h64
    · next h1 h2 => simp [h2]
    · next h1 h2 => simp only [h1, h2, if_false]; exact h h64

end Sys2Proof.Machine
end

