-- ==== Sys2Proof/Laws/Ops.lean ====
section
/-! SUPPORT. Everything the shared operations can do: for each, the fields it may change (its frame: the state after it is
the state before with those fields alone replaced) and what it does to the record or the list it is made for. -/

namespace Sys2Proof.Machine

/-! ## Storage faults -/

/-- A strike changes cells only. -/
theorem State.strike_frame (s : State) (line : Nat) (u : Option Upset) :
    s.strike line u = { s with mem := (s.strike line u).mem, codes := (s.strike line u).codes } := by
  cases u with
  | none => rfl
  | some u =>
    simp only [State.strike, State.writeCells]

@[simp] theorem State.strike_none (s : State) (line : Nat) : s.strike line none = s := rfl

/-! ## Notices -/

theorem State.giveBoth_frame (s : State) (a b : Notice) :
    s.giveBoth a b = { s with notices := (s.giveBoth a b).notices, freeCount := s.freeCount + 1 } := by
  unfold State.giveBoth
  dsimp only
  split <;> rfl

/-- Two notices of open order join in one order or in the other (R190). -/
theorem State.giveBoth_notices (s : State) (a b : Notice) :
    (s.giveBoth a b).notices = placeNotice (placeNotice s.notices a) b
      ∨ (s.giveBoth a b).notices = placeNotice (placeNotice s.notices b) a := by
  unfold State.giveBoth
  dsimp only
  split
  · exact Or.inl rfl
  · exact Or.inr rfl

/-! ## The Repair List -/

theorem State.listLine_frame (s : State) (line : Nat) :
    s.listLine line = { s with lines := (s.listLine line).lines, repairList := (s.listLine line).repairList } := by
  unfold State.listLine
  dsimp only
  split <;> rfl

/-- A line that is listed, or finds no room, is left as it is (R46, R98). -/
theorem State.listLine_of_not (s : State) (line : Nat)
    (h : (s.lineRec line).listed = true ∨ 32 ≤ s.repairList.length) : s.listLine line = s := by
  have : ((s.lineRec line).listed || decide (32 ≤ s.repairList.length)) = true := by
    rcases h with h | h <;> simp [h]
  unfold State.listLine
  simp only [this, if_true]

/-- An unlisted line that finds room joins the tail with the current time (R46, R98). -/
theorem State.listLine_of_room (s : State) (line : Nat) (h : (s.lineRec line).listed = false)
    (hr : s.repairList.length < 32) :
    s.listLine line =
      { s.setRec line { s.lineRec line with listed := true } with
        repairList := s.repairList ++ [⟨line, s.now⟩] } := by
  have : ((s.lineRec line).listed || decide (32 ≤ s.repairList.length)) = false := by
    simp [h]; omega
  unfold State.listLine
  simp only [this]
  rfl

theorem State.lineRec_listLine_other (s : State) {line l : Nat} (h : l ≠ line) :
    (s.listLine line).lineRec l = s.lineRec l := by
  by_cases hl : (s.lineRec line).listed = true ∨ 32 ≤ s.repairList.length
  · rw [State.listLine_of_not s line hl]
  · have h1 : (s.lineRec line).listed = false := by
      cases hc : (s.lineRec line).listed
      · rfl
      · exact absurd (Or.inl hc) hl
    rw [State.listLine_of_room s line h1 (by omega)]
    exact State.lineRec_setRec_other s _ h

/-- Listing changes nothing of the record but the listed mark. -/
theorem State.lineRec_listLine_same (s : State) (line : Nat) :
    (s.listLine line).lineRec line = { s.lineRec line with listed := ((s.listLine line).lineRec line).listed } := by
  by_cases hl : (s.lineRec line).listed = true ∨ 32 ≤ s.repairList.length
  · rw [State.listLine_of_not s line hl]
  · have h1 : (s.lineRec line).listed = false := by
      cases hc : (s.lineRec line).listed
      · rfl
      · exact absurd (Or.inl hc) hl
    rw [State.listLine_of_room s line h1 (by omega)]
    have : ({ s.setRec line { s.lineRec line with listed := true } with
        repairList := s.repairList ++ [⟨line, s.now⟩] } : State).lineRec line
        = { s.lineRec line with listed := true } := State.lineRec_setRec_same s line _
    rw [this]

theorem State.listLine_length (s : State) (line : Nat) (h : s.repairList.length ≤ 32) :
    (s.listLine line).repairList.length ≤ 32 := by
  unfold State.listLine
  dsimp only
  split
  · exact h
  · next hc =>
    have : ¬ 32 ≤ s.repairList.length := by
      intro h'; simp [h'] at hc
    simp; omega

theorem State.lineRec_unlistLine (s : State) (line l : Nat) :
    (s.unlistLine line).lineRec l = if l = line then { s.lineRec line with listed := false } else s.lineRec l :=
  State.lineRec_setRec s line l _

theorem State.mem_unlistLine (s : State) (line : Nat) (e : RepairEntry) :
    e ∈ (s.unlistLine line).repairList ↔ e ∈ s.repairList ∧ e.line ≠ line := by
  simp

/-! ## Slots and flights -/

theorem State.slot_makeDue_same (s : State) (i : SlotNo) (u : SlotUse) (kind : TxKind) (n : Nat) :
    (s.makeDue i u kind n).slot i =
      { s.slot i with use := some { u with attempts := n, due := some ⟨kind, s.dueCount⟩, deadline := none } } :=
  State.slot_setSlot_same s i _

theorem State.slot_makeDue_other (s : State) {i j : SlotNo} (u : SlotUse) (kind : TxKind) (n : Nat) (h : j ≠ i) :
    (s.makeDue i u kind n).slot j = s.slot j := State.slot_setSlot_other s _ h

theorem State.endFlight_frame (s : State) (i : SlotNo) (line : Nat) (mustFull : Bool) :
    s.endFlight i line mustFull = { s with lines := (s.endFlight i line mustFull).lines } := by
  unfold State.endFlight
  dsimp only
  split
  · split <;> rfl
  · split <;> rfl
  all_goals rfl

theorem State.lineRec_endFlight_other (s : State) (i : SlotNo) {line l : Nat} (mustFull : Bool) (h : l ≠ line) :
    (s.endFlight i line mustFull).lineRec l = s.lineRec l := by
  unfold State.endFlight
  dsimp only
  split
  · split
    · exact State.lineRec_setRec_other s _ h
    · rfl
  · split
    · exact State.lineRec_setRec_other s _ h
    · rfl
  all_goals rfl

/-- The end of a flight moves the pending state and leaves the rest of the record. -/
theorem State.lineRec_endFlight_same (s : State) (i : SlotNo) (line : Nat) (mustFull : Bool) :
    (s.endFlight i line mustFull).lineRec line =
      { s.lineRec line with pending := ((s.endFlight i line mustFull).lineRec line).pending } := by
  unfold State.endFlight
  dsimp only
  split
  · split
    · simp
    · rfl
  · split
    · simp
    · rfl
  all_goals rfl

/-! ## Drain -/

theorem State.drainTest_frame (s : State) :
    s.drainTest = { s with notices := s.drainTest.notices, drainPending := s.drainTest.drainPending } := by
  unfold State.drainTest
  split <;> rfl

/-- After the test a drain that is still pending has its condition unmet (R195). -/
theorem State.drainTest_unmet (s : State) (h : s.drainTest.drainPending = true) : s.drained = false := by
  unfold State.drainTest at h
  split at h
  · simp at h
  · next hc =>
    simp [h] at hc
    exact hc

theorem State.endDrain_frame (s : State) :
    s.endDrain = { s with notices := s.endDrain.notices, drainPending := false } := by
  unfold State.endDrain
  split
  · rfl
  · next h =>
    have : s.drainPending = false := by simpa using h
    rw [← this]

/-! ## Withdrawals and check failures -/

theorem State.loseWaitingPost_frame (s : State) (line : Nat) :
    s.loseWaitingPost line =
      { s with
        lines := (s.loseWaitingPost line).lines
        postList := (s.loseWaitingPost line).postList
        notices := (s.loseWaitingPost line).notices } := by
  unfold State.loseWaitingPost
  dsimp only
  split <;> rfl

theorem State.lineRec_loseWaitingPost_other (s : State) {line l : Nat} (h : l ≠ line) :
    (s.loseWaitingPost line).lineRec l = s.lineRec l := by
  unfold State.loseWaitingPost
  dsimp only
  split
  · exact State.lineRec_setRec_other s _ h
  · exact State.lineRec_setRec_other s _ h
  all_goals rfl

/-- The withdrawal moves stamp and pending state and leaves the rest of the record (R99, R100). -/
theorem State.lineRec_loseWaitingPost_same (s : State) (line : Nat) :
    (s.loseWaitingPost line).lineRec line =
      { s.lineRec line with
        stamp := ((s.loseWaitingPost line).lineRec line).stamp
        pending := ((s.loseWaitingPost line).lineRec line).pending } := by
  unfold State.loseWaitingPost
  dsimp only
  split
  · simp
  · simp
  all_goals rfl

theorem State.checkFailure_frame (s : State) (line : Nat) :
    s.checkFailure line =
      { s with
        lines := (s.checkFailure line).lines
        postList := (s.checkFailure line).postList
        notices := (s.checkFailure line).notices
        repairList := (s.checkFailure line).repairList } := by
  unfold State.checkFailure
  dsimp only
  rw [State.listLine_frame, State.loseWaitingPost_frame]
  rfl

theorem State.lineRec_checkFailure_other (s : State) {line l : Nat} (h : l ≠ line) :
    (s.checkFailure line).lineRec l = s.lineRec l := by
  unfold State.checkFailure
  dsimp only
  rw [State.lineRec_listLine_other _ h, State.lineRec_setRec_other _ _ h, State.lineRec_loseWaitingPost_other s h]

/-- A check failure turns the line SUSPECT (R97). -/
theorem State.content_checkFailure (s : State) (line : Nat) :
    ((s.checkFailure line).lineRec line).content = .suspect := by
  unfold State.checkFailure
  dsimp only
  rw [State.lineRec_listLine_same]
  simp

/-! ## The course of an access -/

theorem State.admitAccess_frame (s : State) (a : Access) :
    s.admitAccess a =
      { s with access := (s.admitAccess a).access, completion := (s.admitAccess a).completion, notices := (s.admitAccess a).notices } := by
  unfold State.admitAccess
  dsimp only
  split
  · split <;> rfl
  · split
    · rfl
    · split <;> rfl

theorem State.takeAccess_frame (s : State) (a : Access) :
    s.takeAccess a =
      { s with
        access := (s.takeAccess a).access
        completion := (s.takeAccess a).completion
        notices := (s.takeAccess a).notices } := by
  unfold State.takeAccess
  split
  · rfl
  · split
    · rfl
    · split
      · split
        · rfl
        · rw [State.admitAccess_frame]
      · rw [State.admitAccess_frame]

theorem State.resumeCleared_frame (s : State) :
    s.resumeCleared =
      { s with
        access := s.resumeCleared.access
        completion := s.resumeCleared.completion
        notices := s.resumeCleared.notices } := by
  unfold State.resumeCleared
  split
  · split
    · rw [State.takeAccess_frame]
    · rfl
  · rfl

theorem State.resumeApplied_frame (s : State) : s.resumeApplied = { s with access := s.resumeApplied.access } := by
  unfold State.resumeApplied
  split
  · split <;> rfl
  · rfl

end Sys2Proof.Machine
end

