-- ==== Sys2Proof/Laws/Transitions.lean ====
section
/-! SUPPORT. What the changes of station state can do: abandonment, entry to ISOLATED, departure, the loss of a probe. -/

namespace Sys2Proof.Machine

theorem State.abandonLine_frame (s : State) (i : SlotNo) (line : Nat) :
    s.abandonLine i line =
      { s with lines := (s.abandonLine i line).lines, postList := (s.abandonLine i line).postList } := by
  unfold State.abandonLine
  dsimp only
  split
  · split
    · split <;> rfl
    · rfl
  · split <;> rfl
  all_goals rfl

theorem State.lineRec_abandonLine_other (s : State) (i : SlotNo) {line l : Nat} (h : l ≠ line) :
    (s.abandonLine i line).lineRec l = s.lineRec l := by
  unfold State.abandonLine
  dsimp only
  split
  · split
    · split
      · exact State.lineRec_setRec_other s _ h
      · exact State.lineRec_setRec_other s _ h
    · rfl
  · split
    · exact State.lineRec_setRec_other s _ h
    · rfl
  all_goals rfl

/-- The move of an abandoned line changes the pending state and leaves the rest of the record (R95). -/
theorem State.lineRec_abandonLine_same (s : State) (i : SlotNo) (line : Nat) :
    (s.abandonLine i line).lineRec line =
      { s.lineRec line with pending := ((s.abandonLine i line).lineRec line).pending } := by
  unfold State.abandonLine
  dsimp only
  split
  · split
    · split
      · simp
      · have : ∀ (r : LineRecord) (p : List Nat),
            ({ s.setRec line r with postList := p } : State).lineRec line = r :=
          fun r p => State.lineRec_setRec_same s line r
        rw [this]
    · rfl
  · split
    · simp
    · rfl
  all_goals rfl

theorem State.abandonSlot_frame (s : State) (i : SlotNo) :
    s.abandonSlot i =
      { s with
        slots := (s.abandonSlot i).slots
        lines := (s.abandonSlot i).lines
        postList := (s.abandonSlot i).postList } := by
  unfold State.abandonSlot
  split
  · rfl
  · split
    · rw [State.abandonLine_frame]; rfl
    · rfl

/-- An abandoned slot is free and keeps its generation (R94). -/
theorem State.slot_abandonSlot_same (s : State) (i : SlotNo) :
    (s.abandonSlot i).slot i = { s.slot i with use := none } := by
  unfold State.abandonSlot
  split
  · next h => rw [← h]
  · split
    · rw [State.abandonLine_frame]; exact State.slot_freeSlot_same s i
    · exact State.slot_freeSlot_same s i

theorem State.slot_abandonSlot_other (s : State) {i j : SlotNo} (h : j ≠ i) :
    (s.abandonSlot i).slot j = s.slot j := by
  unfold State.abandonSlot
  split
  · rfl
  · split
    · rw [State.abandonLine_frame]; exact State.slot_freeSlot_other s h
    · exact State.slot_freeSlot_other s h

theorem State.abandonAll_frame (l : List SlotNo) (s : State) :
    l.foldl State.abandonSlot s =
      { s with
        slots := (l.foldl State.abandonSlot s).slots
        lines := (l.foldl State.abandonSlot s).lines
        postList := (l.foldl State.abandonSlot s).postList } := by
  induction l generalizing s with
  | nil => rfl
  | cons i l ih =>
    rw [List.foldl_cons, ih (s.abandonSlot i), State.abandonSlot_frame]

theorem State.abandonSlots_frame (s : State) :
    s.abandonSlots =
      { s with
        slots := s.abandonSlots.slots, lines := s.abandonSlots.lines, postList := s.abandonSlots.postList } :=
  State.abandonAll_frame allSlots s

theorem State.abandonAll_use (l : List SlotNo) (s : State) (i : SlotNo)
    (h : i ∈ l ∨ (s.slot i).use = none) : ((l.foldl State.abandonSlot s).slot i).use = none := by
  induction l generalizing s with
  | nil =>
    rcases h with h | h
    · simp at h
    · exact h
  | cons j l ih =>
    rw [List.foldl_cons]
    apply ih
    by_cases hij : i = j
    · subst hij; right; rw [State.slot_abandonSlot_same]
    · rcases h with h | h
      · left; exact (List.mem_cons.1 h).resolve_left hij
      · right; rw [State.slot_abandonSlot_other s hij]; exact h

theorem mem_allSlots (i : SlotNo) : i ∈ allSlots := by
  revert i; decide

/-- After the abandonment no slot is in use (R94). -/
theorem State.abandonSlots_use (s : State) (i : SlotNo) : (s.abandonSlots.slot i).use = none :=
  State.abandonAll_use allSlots s i (Or.inl (mem_allSlots i))

theorem State.withdraw_frame (s : State) (test : List Byte → Bool) :
    s.withdraw test = { s with place := (s.withdraw test).place } := by
  unfold State.withdraw
  split
  · rfl
  · split <;> rfl

/-- Entry to ISOLATED abandons every slot, may take the waiting frame, cancels the Framer's build, and may give notices
and end a drain; it changes nothing else (R155). -/
theorem State.enterIsolated_frame (s : State) (detail : RingDownDetail) :
    ∃ place notices drainPending, s.enterIsolated detail =
      { s with
        slots := s.abandonSlots.slots
        lines := s.abandonSlots.lines
        postList := s.abandonSlots.postList
        place := place
        build := none
        station := .isolated
        notices := notices
        drainPending := drainPending } := by
  unfold State.enterIsolated
  have h := State.abandonSlots_frame s
  generalize s.abandonSlots = t at h ⊢
  dsimp only
  rw [State.drainTest_frame]
  split <;> (rw [State.withdraw_frame, h]; exact ⟨_, _, _, rfl⟩)

/-- What the Forwarding Unit may change when the station leaves the ring (R138). -/
theorem State.leaveRing_frame (s : State) :
    ∃ fifo place linkMode switchAsked, s.leaveRing =
      { s with
        fifo := fifo, place := place, receiving := false, linkMode := linkMode, switchAsked := switchAsked } := by
  unfold State.leaveRing
  have h := State.withdraw_frame s fun _ => true
  generalize (s.withdraw fun _ => true) = t at h ⊢
  dsimp only
  rw [h]
  dsimp only
  split
  · split
    · exact ⟨_, _, _, _, rfl⟩
    · exact ⟨_, _, _, _, rfl⟩
  all_goals exact ⟨_, _, _, _, rfl⟩

/-- What LEAVE and entry to FAULT may change before their notices (R154, R156). -/
theorem State.depart_frame (s : State) (target : StationState) :
    ∃ lines fifo place linkMode switchAsked, s.depart target =
      { s with
        slots := s.abandonSlots.slots
        lines := lines
        postList := s.abandonSlots.postList
        repairList := []
        answerQueue := []
        build := none
        station := target
        probe := { s.probe with due := false, outstanding := none, timer := none, losses := 0 }
        membership := 0
        fifo := fifo
        place := place
        receiving := false
        linkMode := linkMode
        switchAsked := switchAsked } := by
  unfold State.depart
  have h := State.abandonSlots_frame s
  generalize s.abandonSlots = t at h ⊢
  obtain ⟨fifo, place, linkMode, switchAsked, ht⟩ := State.leaveRing_frame t
  rw [ht, h]
  exact ⟨_, _, _, _, _, rfl⟩

end Sys2Proof.Machine
end

