-- ==== Sys2Proof/Laws/Frames.lean ====
section
/-! SUPPORT. What each operation of many cases leaves as it was: one lemma for each field its frame keeps, and one for each
reading that it does not reach. -/

namespace Sys2Proof.Machine

variable (s : State)

/-! ## strike -/

@[simp] theorem State.strike_pending (line : Nat) (u : Option Upset) : (s.strike line u).pending = s.pending := by
  rw [State.strike_frame]
@[simp] theorem State.strike_now (line : Nat) (u : Option Upset) : (s.strike line u).now = s.now := by
  rw [State.strike_frame]
@[simp] theorem State.strike_freeCount (line : Nat) (u : Option Upset) : (s.strike line u).freeCount = s.freeCount := by
  rw [State.strike_frame]
@[simp] theorem State.strike_resetCount (line : Nat) (u : Option Upset) :
    (s.strike line u).resetCount = s.resetCount := by
  rw [State.strike_frame]
@[simp] theorem State.strike_phase (line : Nat) (u : Option Upset) : (s.strike line u).phase = s.phase := by
  rw [State.strike_frame]
@[simp] theorem State.strike_lines (line : Nat) (u : Option Upset) : (s.strike line u).lines = s.lines := by
  rw [State.strike_frame]
@[simp] theorem State.strike_query (line : Nat) (u : Option Upset) : (s.strike line u).query = s.query := by
  rw [State.strike_frame]
@[simp] theorem State.strike_applyQueue (line : Nat) (u : Option Upset) :
    (s.strike line u).applyQueue = s.applyQueue := by
  rw [State.strike_frame]
@[simp] theorem State.strike_receiving (line : Nat) (u : Option Upset) : (s.strike line u).receiving = s.receiving := by
  rw [State.strike_frame]
@[simp] theorem State.strike_carrier (line : Nat) (u : Option Upset) : (s.strike line u).carrier = s.carrier := by
  rw [State.strike_frame]
@[simp] theorem State.strike_postList (line : Nat) (u : Option Upset) : (s.strike line u).postList = s.postList := by
  rw [State.strike_frame]
@[simp] theorem State.strike_slots (line : Nat) (u : Option Upset) : (s.strike line u).slots = s.slots := by
  rw [State.strike_frame]
@[simp] theorem State.strike_dueCount (line : Nat) (u : Option Upset) : (s.strike line u).dueCount = s.dueCount := by
  rw [State.strike_frame]
@[simp] theorem State.strike_build (line : Nat) (u : Option Upset) : (s.strike line u).build = s.build := by
  rw [State.strike_frame]
@[simp] theorem State.strike_repairList (line : Nat) (u : Option Upset) :
    (s.strike line u).repairList = s.repairList := by
  rw [State.strike_frame]
@[simp] theorem State.strike_answerQueue (line : Nat) (u : Option Upset) :
    (s.strike line u).answerQueue = s.answerQueue := by
  rw [State.strike_frame]
@[simp] theorem State.strike_sweep (line : Nat) (u : Option Upset) : (s.strike line u).sweep = s.sweep := by
  rw [State.strike_frame]
@[simp] theorem State.strike_fifo (line : Nat) (u : Option Upset) : (s.strike line u).fifo = s.fifo := by
  rw [State.strike_frame]
@[simp] theorem State.strike_place (line : Nat) (u : Option Upset) : (s.strike line u).place = s.place := by
  rw [State.strike_frame]
@[simp] theorem State.strike_sending (line : Nat) (u : Option Upset) : (s.strike line u).sending = s.sending := by
  rw [State.strike_frame]
@[simp] theorem State.strike_linkMode (line : Nat) (u : Option Upset) : (s.strike line u).linkMode = s.linkMode := by
  rw [State.strike_frame]
@[simp] theorem State.strike_switchAsked (line : Nat) (u : Option Upset) :
    (s.strike line u).switchAsked = s.switchAsked := by
  rw [State.strike_frame]
@[simp] theorem State.strike_station (line : Nat) (u : Option Upset) : (s.strike line u).station = s.station := by
  rw [State.strike_frame]
@[simp] theorem State.strike_config (line : Nat) (u : Option Upset) : (s.strike line u).config = s.config := by
  rw [State.strike_frame]
@[simp] theorem State.strike_locked (line : Nat) (u : Option Upset) : (s.strike line u).locked = s.locked := by
  rw [State.strike_frame]
@[simp] theorem State.strike_probe (line : Nat) (u : Option Upset) : (s.strike line u).probe = s.probe := by
  rw [State.strike_frame]
@[simp] theorem State.strike_membership (line : Nat) (u : Option Upset) :
    (s.strike line u).membership = s.membership := by
  rw [State.strike_frame]
@[simp] theorem State.strike_drainPending (line : Nat) (u : Option Upset) :
    (s.strike line u).drainPending = s.drainPending := by
  rw [State.strike_frame]
@[simp] theorem State.strike_access (line : Nat) (u : Option Upset) : (s.strike line u).access = s.access := by
  rw [State.strike_frame]
@[simp] theorem State.strike_completion (line : Nat) (u : Option Upset) :
    (s.strike line u).completion = s.completion := by
  rw [State.strike_frame]
@[simp] theorem State.strike_hold (line : Nat) (u : Option Upset) : (s.strike line u).hold = s.hold := by
  rw [State.strike_frame]
@[simp] theorem State.strike_intEnable (line : Nat) (u : Option Upset) : (s.strike line u).intEnable = s.intEnable := by
  rw [State.strike_frame]
@[simp] theorem State.strike_commandWord (line : Nat) (u : Option Upset) :
    (s.strike line u).commandWord = s.commandWord := by
  rw [State.strike_frame]
@[simp] theorem State.strike_result (line : Nat) (u : Option Upset) : (s.strike line u).result = s.result := by
  rw [State.strike_frame]
@[simp] theorem State.strike_notices (line : Nat) (u : Option Upset) : (s.strike line u).notices = s.notices := by
  rw [State.strike_frame]
@[simp] theorem State.strike_lineRec (line : Nat) (u : Option Upset) (l : Nat) :
    (s.strike line u).lineRec l = s.lineRec l :=
  State.lineRec_congr (by simp) _
@[simp] theorem State.strike_slot (line : Nat) (u : Option Upset) (j : SlotNo) :
    (s.strike line u).slot j = s.slot j := by
  simp only [State.slot, State.strike_slots]
@[simp] theorem State.strike_updateSlots (line : Nat) (u : Option Upset) :
    (s.strike line u).updateSlots = s.updateSlots := by
  simp only [State.updateSlots, State.strike_slot]
@[simp] theorem State.strike_window (line : Nat) (u : Option Upset) : (s.strike line u).window = s.window := by
  simp only [State.window, State.strike_config]
@[simp] theorem State.strike_isHeld (line : Nat) (u : Option Upset) (l : Nat) :
    (s.strike line u).isHeld l = s.isHeld l := by
  simp only [State.isHeld, State.strike_hold]

/-! ## giveBoth -/

@[simp] theorem State.giveBoth_pending (a b : Notice) : (s.giveBoth a b).pending = s.pending := by
  rw [State.giveBoth_frame]
@[simp] theorem State.giveBoth_now (a b : Notice) : (s.giveBoth a b).now = s.now := by
  rw [State.giveBoth_frame]
@[simp] theorem State.giveBoth_resetCount (a b : Notice) : (s.giveBoth a b).resetCount = s.resetCount := by
  rw [State.giveBoth_frame]
@[simp] theorem State.giveBoth_phase (a b : Notice) : (s.giveBoth a b).phase = s.phase := by
  rw [State.giveBoth_frame]
@[simp] theorem State.giveBoth_mem (a b : Notice) : (s.giveBoth a b).mem = s.mem := by
  rw [State.giveBoth_frame]
@[simp] theorem State.giveBoth_codes (a b : Notice) : (s.giveBoth a b).codes = s.codes := by
  rw [State.giveBoth_frame]
@[simp] theorem State.giveBoth_lines (a b : Notice) : (s.giveBoth a b).lines = s.lines := by
  rw [State.giveBoth_frame]
@[simp] theorem State.giveBoth_query (a b : Notice) : (s.giveBoth a b).query = s.query := by
  rw [State.giveBoth_frame]
@[simp] theorem State.giveBoth_applyQueue (a b : Notice) : (s.giveBoth a b).applyQueue = s.applyQueue := by
  rw [State.giveBoth_frame]
@[simp] theorem State.giveBoth_receiving (a b : Notice) : (s.giveBoth a b).receiving = s.receiving := by
  rw [State.giveBoth_frame]
@[simp] theorem State.giveBoth_carrier (a b : Notice) : (s.giveBoth a b).carrier = s.carrier := by
  rw [State.giveBoth_frame]
@[simp] theorem State.giveBoth_postList (a b : Notice) : (s.giveBoth a b).postList = s.postList := by
  rw [State.giveBoth_frame]
@[simp] theorem State.giveBoth_slots (a b : Notice) : (s.giveBoth a b).slots = s.slots := by
  rw [State.giveBoth_frame]
@[simp] theorem State.giveBoth_dueCount (a b : Notice) : (s.giveBoth a b).dueCount = s.dueCount := by
  rw [State.giveBoth_frame]
@[simp] theorem State.giveBoth_build (a b : Notice) : (s.giveBoth a b).build = s.build := by
  rw [State.giveBoth_frame]
@[simp] theorem State.giveBoth_repairList (a b : Notice) : (s.giveBoth a b).repairList = s.repairList := by
  rw [State.giveBoth_frame]
@[simp] theorem State.giveBoth_answerQueue (a b : Notice) : (s.giveBoth a b).answerQueue = s.answerQueue := by
  rw [State.giveBoth_frame]
@[simp] theorem State.giveBoth_sweep (a b : Notice) : (s.giveBoth a b).sweep = s.sweep := by
  rw [State.giveBoth_frame]
@[simp] theorem State.giveBoth_fifo (a b : Notice) : (s.giveBoth a b).fifo = s.fifo := by
  rw [State.giveBoth_frame]
@[simp] theorem State.giveBoth_place (a b : Notice) : (s.giveBoth a b).place = s.place := by
  rw [State.giveBoth_frame]
@[simp] theorem State.giveBoth_sending (a b : Notice) : (s.giveBoth a b).sending = s.sending := by
  rw [State.giveBoth_frame]
@[simp] theorem State.giveBoth_linkMode (a b : Notice) : (s.giveBoth a b).linkMode = s.linkMode := by
  rw [State.giveBoth_frame]
@[simp] theorem State.giveBoth_switchAsked (a b : Notice) : (s.giveBoth a b).switchAsked = s.switchAsked := by
  rw [State.giveBoth_frame]
@[simp] theorem State.giveBoth_station (a b : Notice) : (s.giveBoth a b).station = s.station := by
  rw [State.giveBoth_frame]
@[simp] theorem State.giveBoth_config (a b : Notice) : (s.giveBoth a b).config = s.config := by
  rw [State.giveBoth_frame]
@[simp] theorem State.giveBoth_locked (a b : Notice) : (s.giveBoth a b).locked = s.locked := by
  rw [State.giveBoth_frame]
@[simp] theorem State.giveBoth_probe (a b : Notice) : (s.giveBoth a b).probe = s.probe := by
  rw [State.giveBoth_frame]
@[simp] theorem State.giveBoth_membership (a b : Notice) : (s.giveBoth a b).membership = s.membership := by
  rw [State.giveBoth_frame]
@[simp] theorem State.giveBoth_drainPending (a b : Notice) : (s.giveBoth a b).drainPending = s.drainPending := by
  rw [State.giveBoth_frame]
@[simp] theorem State.giveBoth_access (a b : Notice) : (s.giveBoth a b).access = s.access := by
  rw [State.giveBoth_frame]
@[simp] theorem State.giveBoth_completion (a b : Notice) : (s.giveBoth a b).completion = s.completion := by
  rw [State.giveBoth_frame]
@[simp] theorem State.giveBoth_hold (a b : Notice) : (s.giveBoth a b).hold = s.hold := by
  rw [State.giveBoth_frame]
@[simp] theorem State.giveBoth_intEnable (a b : Notice) : (s.giveBoth a b).intEnable = s.intEnable := by
  rw [State.giveBoth_frame]
@[simp] theorem State.giveBoth_commandWord (a b : Notice) : (s.giveBoth a b).commandWord = s.commandWord := by
  rw [State.giveBoth_frame]
@[simp] theorem State.giveBoth_result (a b : Notice) : (s.giveBoth a b).result = s.result := by
  rw [State.giveBoth_frame]
@[simp] theorem State.giveBoth_lineRec (a b : Notice) (l : Nat) : (s.giveBoth a b).lineRec l = s.lineRec l :=
  State.lineRec_congr (by simp) _
@[simp] theorem State.giveBoth_slot (a b : Notice) (j : SlotNo) : (s.giveBoth a b).slot j = s.slot j := by
  simp only [State.slot, State.giveBoth_slots]
@[simp] theorem State.giveBoth_byteAt (a b : Notice) (x : Nat) : (s.giveBoth a b).byteAt x = s.byteAt x :=
  State.byteAt_congr (by simp) (by simp) (by simp) _
@[simp] theorem State.giveBoth_lineBytes (a b : Notice) (l : Nat) : (s.giveBoth a b).lineBytes l = s.lineBytes l :=
  State.lineBytes_congr (by simp) (by simp) (by simp) _
@[simp] theorem State.giveBoth_lineCode (a b : Notice) (l : Nat) : (s.giveBoth a b).lineCode l = s.lineCode l :=
  State.lineCode_congr (by simp) (by simp) (by simp) _
@[simp] theorem State.giveBoth_checkGood (a b : Notice) (l : Nat) : (s.giveBoth a b).checkGood l = s.checkGood l := by
  simp only [State.checkGood, State.giveBoth_lineCode, State.giveBoth_lineBytes]
@[simp] theorem State.giveBoth_updateSlots (a b : Notice) : (s.giveBoth a b).updateSlots = s.updateSlots := by
  simp only [State.updateSlots, State.giveBoth_slot]
@[simp] theorem State.giveBoth_window (a b : Notice) : (s.giveBoth a b).window = s.window := by
  simp only [State.window, State.giveBoth_config]
@[simp] theorem State.giveBoth_isHeld (a b : Notice) (l : Nat) : (s.giveBoth a b).isHeld l = s.isHeld l := by
  simp only [State.isHeld, State.giveBoth_hold]

/-! ## listLine -/

@[simp] theorem State.listLine_pending (line : Nat) : (s.listLine line).pending = s.pending := by
  rw [State.listLine_frame]
@[simp] theorem State.listLine_now (line : Nat) : (s.listLine line).now = s.now := by
  rw [State.listLine_frame]
@[simp] theorem State.listLine_freeCount (line : Nat) : (s.listLine line).freeCount = s.freeCount := by
  rw [State.listLine_frame]
@[simp] theorem State.listLine_resetCount (line : Nat) : (s.listLine line).resetCount = s.resetCount := by
  rw [State.listLine_frame]
@[simp] theorem State.listLine_phase (line : Nat) : (s.listLine line).phase = s.phase := by
  rw [State.listLine_frame]
@[simp] theorem State.listLine_mem (line : Nat) : (s.listLine line).mem = s.mem := by
  rw [State.listLine_frame]
@[simp] theorem State.listLine_codes (line : Nat) : (s.listLine line).codes = s.codes := by
  rw [State.listLine_frame]
@[simp] theorem State.listLine_query (line : Nat) : (s.listLine line).query = s.query := by
  rw [State.listLine_frame]
@[simp] theorem State.listLine_applyQueue (line : Nat) : (s.listLine line).applyQueue = s.applyQueue := by
  rw [State.listLine_frame]
@[simp] theorem State.listLine_receiving (line : Nat) : (s.listLine line).receiving = s.receiving := by
  rw [State.listLine_frame]
@[simp] theorem State.listLine_carrier (line : Nat) : (s.listLine line).carrier = s.carrier := by
  rw [State.listLine_frame]
@[simp] theorem State.listLine_postList (line : Nat) : (s.listLine line).postList = s.postList := by
  rw [State.listLine_frame]
@[simp] theorem State.listLine_slots (line : Nat) : (s.listLine line).slots = s.slots := by
  rw [State.listLine_frame]
@[simp] theorem State.listLine_dueCount (line : Nat) : (s.listLine line).dueCount = s.dueCount := by
  rw [State.listLine_frame]
@[simp] theorem State.listLine_build (line : Nat) : (s.listLine line).build = s.build := by
  rw [State.listLine_frame]
@[simp] theorem State.listLine_answerQueue (line : Nat) : (s.listLine line).answerQueue = s.answerQueue := by
  rw [State.listLine_frame]
@[simp] theorem State.listLine_sweep (line : Nat) : (s.listLine line).sweep = s.sweep := by
  rw [State.listLine_frame]
@[simp] theorem State.listLine_fifo (line : Nat) : (s.listLine line).fifo = s.fifo := by
  rw [State.listLine_frame]
@[simp] theorem State.listLine_place (line : Nat) : (s.listLine line).place = s.place := by
  rw [State.listLine_frame]
@[simp] theorem State.listLine_sending (line : Nat) : (s.listLine line).sending = s.sending := by
  rw [State.listLine_frame]
@[simp] theorem State.listLine_linkMode (line : Nat) : (s.listLine line).linkMode = s.linkMode := by
  rw [State.listLine_frame]
@[simp] theorem State.listLine_switchAsked (line : Nat) : (s.listLine line).switchAsked = s.switchAsked := by
  rw [State.listLine_frame]
@[simp] theorem State.listLine_station (line : Nat) : (s.listLine line).station = s.station := by
  rw [State.listLine_frame]
@[simp] theorem State.listLine_config (line : Nat) : (s.listLine line).config = s.config := by
  rw [State.listLine_frame]
@[simp] theorem State.listLine_locked (line : Nat) : (s.listLine line).locked = s.locked := by
  rw [State.listLine_frame]
@[simp] theorem State.listLine_probe (line : Nat) : (s.listLine line).probe = s.probe := by
  rw [State.listLine_frame]
@[simp] theorem State.listLine_membership (line : Nat) : (s.listLine line).membership = s.membership := by
  rw [State.listLine_frame]
@[simp] theorem State.listLine_drainPending (line : Nat) : (s.listLine line).drainPending = s.drainPending := by
  rw [State.listLine_frame]
@[simp] theorem State.listLine_access (line : Nat) : (s.listLine line).access = s.access := by
  rw [State.listLine_frame]
@[simp] theorem State.listLine_completion (line : Nat) : (s.listLine line).completion = s.completion := by
  rw [State.listLine_frame]
@[simp] theorem State.listLine_hold (line : Nat) : (s.listLine line).hold = s.hold := by
  rw [State.listLine_frame]
@[simp] theorem State.listLine_intEnable (line : Nat) : (s.listLine line).intEnable = s.intEnable := by
  rw [State.listLine_frame]
@[simp] theorem State.listLine_commandWord (line : Nat) : (s.listLine line).commandWord = s.commandWord := by
  rw [State.listLine_frame]
@[simp] theorem State.listLine_result (line : Nat) : (s.listLine line).result = s.result := by
  rw [State.listLine_frame]
@[simp] theorem State.listLine_notices (line : Nat) : (s.listLine line).notices = s.notices := by
  rw [State.listLine_frame]
@[simp] theorem State.listLine_slot (line : Nat) (j : SlotNo) : (s.listLine line).slot j = s.slot j := by
  simp only [State.slot, State.listLine_slots]
@[simp] theorem State.listLine_byteAt (line : Nat) (x : Nat) : (s.listLine line).byteAt x = s.byteAt x :=
  State.byteAt_congr (by simp) (by simp) (by simp) _
@[simp] theorem State.listLine_lineBytes (line : Nat) (l : Nat) : (s.listLine line).lineBytes l = s.lineBytes l :=
  State.lineBytes_congr (by simp) (by simp) (by simp) _
@[simp] theorem State.listLine_lineCode (line : Nat) (l : Nat) : (s.listLine line).lineCode l = s.lineCode l :=
  State.lineCode_congr (by simp) (by simp) (by simp) _
@[simp] theorem State.listLine_checkGood (line : Nat) (l : Nat) : (s.listLine line).checkGood l = s.checkGood l := by
  simp only [State.checkGood, State.listLine_lineCode, State.listLine_lineBytes]
@[simp] theorem State.listLine_updateSlots (line : Nat) : (s.listLine line).updateSlots = s.updateSlots := by
  simp only [State.updateSlots, State.listLine_slot]
@[simp] theorem State.listLine_window (line : Nat) : (s.listLine line).window = s.window := by
  simp only [State.window, State.listLine_config]
@[simp] theorem State.listLine_isHeld (line : Nat) (l : Nat) : (s.listLine line).isHeld l = s.isHeld l := by
  simp only [State.isHeld, State.listLine_hold]

/-! ## endFlight -/

@[simp] theorem State.endFlight_pending (i : SlotNo) (line : Nat) (mustFull : Bool) :
    (s.endFlight i line mustFull).pending = s.pending := by
  rw [State.endFlight_frame]
@[simp] theorem State.endFlight_now (i : SlotNo) (line : Nat) (mustFull : Bool) :
    (s.endFlight i line mustFull).now = s.now := by
  rw [State.endFlight_frame]
@[simp] theorem State.endFlight_freeCount (i : SlotNo) (line : Nat) (mustFull : Bool) :
    (s.endFlight i line mustFull).freeCount = s.freeCount := by
  rw [State.endFlight_frame]
@[simp] theorem State.endFlight_resetCount (i : SlotNo) (line : Nat) (mustFull : Bool) :
    (s.endFlight i line mustFull).resetCount = s.resetCount := by
  rw [State.endFlight_frame]
@[simp] theorem State.endFlight_phase (i : SlotNo) (line : Nat) (mustFull : Bool) :
    (s.endFlight i line mustFull).phase = s.phase := by
  rw [State.endFlight_frame]
@[simp] theorem State.endFlight_mem (i : SlotNo) (line : Nat) (mustFull : Bool) :
    (s.endFlight i line mustFull).mem = s.mem := by
  rw [State.endFlight_frame]
@[simp] theorem State.endFlight_codes (i : SlotNo) (line : Nat) (mustFull : Bool) :
    (s.endFlight i line mustFull).codes = s.codes := by
  rw [State.endFlight_frame]
@[simp] theorem State.endFlight_query (i : SlotNo) (line : Nat) (mustFull : Bool) :
    (s.endFlight i line mustFull).query = s.query := by
  rw [State.endFlight_frame]
@[simp] theorem State.endFlight_applyQueue (i : SlotNo) (line : Nat) (mustFull : Bool) :
    (s.endFlight i line mustFull).applyQueue = s.applyQueue := by
  rw [State.endFlight_frame]
@[simp] theorem State.endFlight_receiving (i : SlotNo) (line : Nat) (mustFull : Bool) :
    (s.endFlight i line mustFull).receiving = s.receiving := by
  rw [State.endFlight_frame]
@[simp] theorem State.endFlight_carrier (i : SlotNo) (line : Nat) (mustFull : Bool) :
    (s.endFlight i line mustFull).carrier = s.carrier := by
  rw [State.endFlight_frame]
@[simp] theorem State.endFlight_postList (i : SlotNo) (line : Nat) (mustFull : Bool) :
    (s.endFlight i line mustFull).postList = s.postList := by
  rw [State.endFlight_frame]
@[simp] theorem State.endFlight_slots (i : SlotNo) (line : Nat) (mustFull : Bool) :
    (s.endFlight i line mustFull).slots = s.slots := by
  rw [State.endFlight_frame]
@[simp] theorem State.endFlight_dueCount (i : SlotNo) (line : Nat) (mustFull : Bool) :
    (s.endFlight i line mustFull).dueCount = s.dueCount := by
  rw [State.endFlight_frame]
@[simp] theorem State.endFlight_build (i : SlotNo) (line : Nat) (mustFull : Bool) :
    (s.endFlight i line mustFull).build = s.build := by
  rw [State.endFlight_frame]
@[simp] theorem State.endFlight_repairList (i : SlotNo) (line : Nat) (mustFull : Bool) :
    (s.endFlight i line mustFull).repairList = s.repairList := by
  rw [State.endFlight_frame]
@[simp] theorem State.endFlight_answerQueue (i : SlotNo) (line : Nat) (mustFull : Bool) :
    (s.endFlight i line mustFull).answerQueue = s.answerQueue := by
  rw [State.endFlight_frame]
@[simp] theorem State.endFlight_sweep (i : SlotNo) (line : Nat) (mustFull : Bool) :
    (s.endFlight i line mustFull).sweep = s.sweep := by
  rw [State.endFlight_frame]
@[simp] theorem State.endFlight_fifo (i : SlotNo) (line : Nat) (mustFull : Bool) :
    (s.endFlight i line mustFull).fifo = s.fifo := by
  rw [State.endFlight_frame]
@[simp] theorem State.endFlight_place (i : SlotNo) (line : Nat) (mustFull : Bool) :
    (s.endFlight i line mustFull).place = s.place := by
  rw [State.endFlight_frame]
@[simp] theorem State.endFlight_sending (i : SlotNo) (line : Nat) (mustFull : Bool) :
    (s.endFlight i line mustFull).sending = s.sending := by
  rw [State.endFlight_frame]
@[simp] theorem State.endFlight_linkMode (i : SlotNo) (line : Nat) (mustFull : Bool) :
    (s.endFlight i line mustFull).linkMode = s.linkMode := by
  rw [State.endFlight_frame]
@[simp] theorem State.endFlight_switchAsked (i : SlotNo) (line : Nat) (mustFull : Bool) :
    (s.endFlight i line mustFull).switchAsked = s.switchAsked := by
  rw [State.endFlight_frame]
@[simp] theorem State.endFlight_station (i : SlotNo) (line : Nat) (mustFull : Bool) :
    (s.endFlight i line mustFull).station = s.station := by
  rw [State.endFlight_frame]
@[simp] theorem State.endFlight_config (i : SlotNo) (line : Nat) (mustFull : Bool) :
    (s.endFlight i line mustFull).config = s.config := by
  rw [State.endFlight_frame]
@[simp] theorem State.endFlight_locked (i : SlotNo) (line : Nat) (mustFull : Bool) :
    (s.endFlight i line mustFull).locked = s.locked := by
  rw [State.endFlight_frame]
@[simp] theorem State.endFlight_probe (i : SlotNo) (line : Nat) (mustFull : Bool) :
    (s.endFlight i line mustFull).probe = s.probe := by
  rw [State.endFlight_frame]
@[simp] theorem State.endFlight_membership (i : SlotNo) (line : Nat) (mustFull : Bool) :
    (s.endFlight i line mustFull).membership = s.membership := by
  rw [State.endFlight_frame]
@[simp] theorem State.endFlight_drainPending (i : SlotNo) (line : Nat) (mustFull : Bool) :
    (s.endFlight i line mustFull).drainPending = s.drainPending := by
  rw [State.endFlight_frame]
@[simp] theorem State.endFlight_access (i : SlotNo) (line : Nat) (mustFull : Bool) :
    (s.endFlight i line mustFull).access = s.access := by
  rw [State.endFlight_frame]
@[simp] theorem State.endFlight_completion (i : SlotNo) (line : Nat) (mustFull : Bool) :
    (s.endFlight i line mustFull).completion = s.completion := by
  rw [State.endFlight_frame]
@[simp] theorem State.endFlight_hold (i : SlotNo) (line : Nat) (mustFull : Bool) :
    (s.endFlight i line mustFull).hold = s.hold := by
  rw [State.endFlight_frame]
@[simp] theorem State.endFlight_intEnable (i : SlotNo) (line : Nat) (mustFull : Bool) :
    (s.endFlight i line mustFull).intEnable = s.intEnable := by
  rw [State.endFlight_frame]
@[simp] theorem State.endFlight_commandWord (i : SlotNo) (line : Nat) (mustFull : Bool) :
    (s.endFlight i line mustFull).commandWord = s.commandWord := by
  rw [State.endFlight_frame]
@[simp] theorem State.endFlight_result (i : SlotNo) (line : Nat) (mustFull : Bool) :
    (s.endFlight i line mustFull).result = s.result := by
  rw [State.endFlight_frame]
@[simp] theorem State.endFlight_notices (i : SlotNo) (line : Nat) (mustFull : Bool) :
    (s.endFlight i line mustFull).notices = s.notices := by
  rw [State.endFlight_frame]
@[simp] theorem State.endFlight_slot (i : SlotNo) (line : Nat) (mustFull : Bool) (j : SlotNo) :
    (s.endFlight i line mustFull).slot j = s.slot j := by
  simp only [State.slot, State.endFlight_slots]
@[simp] theorem State.endFlight_byteAt (i : SlotNo) (line : Nat) (mustFull : Bool) (x : Nat) :
    (s.endFlight i line mustFull).byteAt x = s.byteAt x :=
  State.byteAt_congr (by simp) (by simp) (by simp) _
@[simp] theorem State.endFlight_lineBytes (i : SlotNo) (line : Nat) (mustFull : Bool) (l : Nat) :
    (s.endFlight i line mustFull).lineBytes l = s.lineBytes l :=
  State.lineBytes_congr (by simp) (by simp) (by simp) _
@[simp] theorem State.endFlight_lineCode (i : SlotNo) (line : Nat) (mustFull : Bool) (l : Nat) :
    (s.endFlight i line mustFull).lineCode l = s.lineCode l :=
  State.lineCode_congr (by simp) (by simp) (by simp) _
@[simp] theorem State.endFlight_checkGood (i : SlotNo) (line : Nat) (mustFull : Bool) (l : Nat) :
    (s.endFlight i line mustFull).checkGood l = s.checkGood l := by
  simp only [State.checkGood, State.endFlight_lineCode, State.endFlight_lineBytes]
@[simp] theorem State.endFlight_updateSlots (i : SlotNo) (line : Nat) (mustFull : Bool) :
    (s.endFlight i line mustFull).updateSlots = s.updateSlots := by
  simp only [State.updateSlots, State.endFlight_slot]
@[simp] theorem State.endFlight_window (i : SlotNo) (line : Nat) (mustFull : Bool) :
    (s.endFlight i line mustFull).window = s.window := by
  simp only [State.window, State.endFlight_config]
@[simp] theorem State.endFlight_isHeld (i : SlotNo) (line : Nat) (mustFull : Bool) (l : Nat) :
    (s.endFlight i line mustFull).isHeld l = s.isHeld l := by
  simp only [State.isHeld, State.endFlight_hold]

/-! ## drainTest -/

@[simp] theorem State.drainTest_pending : s.drainTest.pending = s.pending := by
  rw [State.drainTest_frame]
@[simp] theorem State.drainTest_now : s.drainTest.now = s.now := by
  rw [State.drainTest_frame]
@[simp] theorem State.drainTest_freeCount : s.drainTest.freeCount = s.freeCount := by
  rw [State.drainTest_frame]
@[simp] theorem State.drainTest_resetCount : s.drainTest.resetCount = s.resetCount := by
  rw [State.drainTest_frame]
@[simp] theorem State.drainTest_phase : s.drainTest.phase = s.phase := by
  rw [State.drainTest_frame]
@[simp] theorem State.drainTest_mem : s.drainTest.mem = s.mem := by
  rw [State.drainTest_frame]
@[simp] theorem State.drainTest_codes : s.drainTest.codes = s.codes := by
  rw [State.drainTest_frame]
@[simp] theorem State.drainTest_lines : s.drainTest.lines = s.lines := by
  rw [State.drainTest_frame]
@[simp] theorem State.drainTest_query : s.drainTest.query = s.query := by
  rw [State.drainTest_frame]
@[simp] theorem State.drainTest_applyQueue : s.drainTest.applyQueue = s.applyQueue := by
  rw [State.drainTest_frame]
@[simp] theorem State.drainTest_receiving : s.drainTest.receiving = s.receiving := by
  rw [State.drainTest_frame]
@[simp] theorem State.drainTest_carrier : s.drainTest.carrier = s.carrier := by
  rw [State.drainTest_frame]
@[simp] theorem State.drainTest_postList : s.drainTest.postList = s.postList := by
  rw [State.drainTest_frame]
@[simp] theorem State.drainTest_slots : s.drainTest.slots = s.slots := by
  rw [State.drainTest_frame]
@[simp] theorem State.drainTest_dueCount : s.drainTest.dueCount = s.dueCount := by
  rw [State.drainTest_frame]
@[simp] theorem State.drainTest_build : s.drainTest.build = s.build := by
  rw [State.drainTest_frame]
@[simp] theorem State.drainTest_repairList : s.drainTest.repairList = s.repairList := by
  rw [State.drainTest_frame]
@[simp] theorem State.drainTest_answerQueue : s.drainTest.answerQueue = s.answerQueue := by
  rw [State.drainTest_frame]
@[simp] theorem State.drainTest_sweep : s.drainTest.sweep = s.sweep := by
  rw [State.drainTest_frame]
@[simp] theorem State.drainTest_fifo : s.drainTest.fifo = s.fifo := by
  rw [State.drainTest_frame]
@[simp] theorem State.drainTest_place : s.drainTest.place = s.place := by
  rw [State.drainTest_frame]
@[simp] theorem State.drainTest_sending : s.drainTest.sending = s.sending := by
  rw [State.drainTest_frame]
@[simp] theorem State.drainTest_linkMode : s.drainTest.linkMode = s.linkMode := by
  rw [State.drainTest_frame]
@[simp] theorem State.drainTest_switchAsked : s.drainTest.switchAsked = s.switchAsked := by
  rw [State.drainTest_frame]
@[simp] theorem State.drainTest_station : s.drainTest.station = s.station := by
  rw [State.drainTest_frame]
@[simp] theorem State.drainTest_config : s.drainTest.config = s.config := by
  rw [State.drainTest_frame]
@[simp] theorem State.drainTest_locked : s.drainTest.locked = s.locked := by
  rw [State.drainTest_frame]
@[simp] theorem State.drainTest_probe : s.drainTest.probe = s.probe := by
  rw [State.drainTest_frame]
@[simp] theorem State.drainTest_membership : s.drainTest.membership = s.membership := by
  rw [State.drainTest_frame]
@[simp] theorem State.drainTest_access : s.drainTest.access = s.access := by
  rw [State.drainTest_frame]
@[simp] theorem State.drainTest_completion : s.drainTest.completion = s.completion := by
  rw [State.drainTest_frame]
@[simp] theorem State.drainTest_hold : s.drainTest.hold = s.hold := by
  rw [State.drainTest_frame]
@[simp] theorem State.drainTest_intEnable : s.drainTest.intEnable = s.intEnable := by
  rw [State.drainTest_frame]
@[simp] theorem State.drainTest_commandWord : s.drainTest.commandWord = s.commandWord := by
  rw [State.drainTest_frame]
@[simp] theorem State.drainTest_result : s.drainTest.result = s.result := by
  rw [State.drainTest_frame]
@[simp] theorem State.drainTest_lineRec (l : Nat) : s.drainTest.lineRec l = s.lineRec l :=
  State.lineRec_congr (by simp) _
@[simp] theorem State.drainTest_slot (j : SlotNo) : s.drainTest.slot j = s.slot j := by
  simp only [State.slot, State.drainTest_slots]
@[simp] theorem State.drainTest_byteAt (x : Nat) : s.drainTest.byteAt x = s.byteAt x :=
  State.byteAt_congr (by simp) (by simp) (by simp) _
@[simp] theorem State.drainTest_lineBytes (l : Nat) : s.drainTest.lineBytes l = s.lineBytes l :=
  State.lineBytes_congr (by simp) (by simp) (by simp) _
@[simp] theorem State.drainTest_lineCode (l : Nat) : s.drainTest.lineCode l = s.lineCode l :=
  State.lineCode_congr (by simp) (by simp) (by simp) _
@[simp] theorem State.drainTest_checkGood (l : Nat) : s.drainTest.checkGood l = s.checkGood l := by
  simp only [State.checkGood, State.drainTest_lineCode, State.drainTest_lineBytes]
@[simp] theorem State.drainTest_updateSlots : s.drainTest.updateSlots = s.updateSlots := by
  simp only [State.updateSlots, State.drainTest_slot]
@[simp] theorem State.drainTest_window : s.drainTest.window = s.window := by
  simp only [State.window, State.drainTest_config]
@[simp] theorem State.drainTest_isHeld (l : Nat) : s.drainTest.isHeld l = s.isHeld l := by
  simp only [State.isHeld, State.drainTest_hold]

/-! ## loseWaitingPost -/

@[simp] theorem State.loseWaitingPost_pending (line : Nat) : (s.loseWaitingPost line).pending = s.pending := by
  rw [State.loseWaitingPost_frame]
@[simp] theorem State.loseWaitingPost_now (line : Nat) : (s.loseWaitingPost line).now = s.now := by
  rw [State.loseWaitingPost_frame]
@[simp] theorem State.loseWaitingPost_freeCount (line : Nat) : (s.loseWaitingPost line).freeCount = s.freeCount := by
  rw [State.loseWaitingPost_frame]
@[simp] theorem State.loseWaitingPost_resetCount (line : Nat) : (s.loseWaitingPost line).resetCount = s.resetCount := by
  rw [State.loseWaitingPost_frame]
@[simp] theorem State.loseWaitingPost_phase (line : Nat) : (s.loseWaitingPost line).phase = s.phase := by
  rw [State.loseWaitingPost_frame]
@[simp] theorem State.loseWaitingPost_mem (line : Nat) : (s.loseWaitingPost line).mem = s.mem := by
  rw [State.loseWaitingPost_frame]
@[simp] theorem State.loseWaitingPost_codes (line : Nat) : (s.loseWaitingPost line).codes = s.codes := by
  rw [State.loseWaitingPost_frame]
@[simp] theorem State.loseWaitingPost_query (line : Nat) : (s.loseWaitingPost line).query = s.query := by
  rw [State.loseWaitingPost_frame]
@[simp] theorem State.loseWaitingPost_applyQueue (line : Nat) : (s.loseWaitingPost line).applyQueue = s.applyQueue := by
  rw [State.loseWaitingPost_frame]
@[simp] theorem State.loseWaitingPost_receiving (line : Nat) : (s.loseWaitingPost line).receiving = s.receiving := by
  rw [State.loseWaitingPost_frame]
@[simp] theorem State.loseWaitingPost_carrier (line : Nat) : (s.loseWaitingPost line).carrier = s.carrier := by
  rw [State.loseWaitingPost_frame]
@[simp] theorem State.loseWaitingPost_slots (line : Nat) : (s.loseWaitingPost line).slots = s.slots := by
  rw [State.loseWaitingPost_frame]
@[simp] theorem State.loseWaitingPost_dueCount (line : Nat) : (s.loseWaitingPost line).dueCount = s.dueCount := by
  rw [State.loseWaitingPost_frame]
@[simp] theorem State.loseWaitingPost_build (line : Nat) : (s.loseWaitingPost line).build = s.build := by
  rw [State.loseWaitingPost_frame]
@[simp] theorem State.loseWaitingPost_repairList (line : Nat) : (s.loseWaitingPost line).repairList = s.repairList := by
  rw [State.loseWaitingPost_frame]
@[simp] theorem State.loseWaitingPost_answerQueue (line : Nat) :
    (s.loseWaitingPost line).answerQueue = s.answerQueue := by
  rw [State.loseWaitingPost_frame]
@[simp] theorem State.loseWaitingPost_sweep (line : Nat) : (s.loseWaitingPost line).sweep = s.sweep := by
  rw [State.loseWaitingPost_frame]
@[simp] theorem State.loseWaitingPost_fifo (line : Nat) : (s.loseWaitingPost line).fifo = s.fifo := by
  rw [State.loseWaitingPost_frame]
@[simp] theorem State.loseWaitingPost_place (line : Nat) : (s.loseWaitingPost line).place = s.place := by
  rw [State.loseWaitingPost_frame]
@[simp] theorem State.loseWaitingPost_sending (line : Nat) : (s.loseWaitingPost line).sending = s.sending := by
  rw [State.loseWaitingPost_frame]
@[simp] theorem State.loseWaitingPost_linkMode (line : Nat) : (s.loseWaitingPost line).linkMode = s.linkMode := by
  rw [State.loseWaitingPost_frame]
@[simp] theorem State.loseWaitingPost_switchAsked (line : Nat) :
    (s.loseWaitingPost line).switchAsked = s.switchAsked := by
  rw [State.loseWaitingPost_frame]
@[simp] theorem State.loseWaitingPost_station (line : Nat) : (s.loseWaitingPost line).station = s.station := by
  rw [State.loseWaitingPost_frame]
@[simp] theorem State.loseWaitingPost_config (line : Nat) : (s.loseWaitingPost line).config = s.config := by
  rw [State.loseWaitingPost_frame]
@[simp] theorem State.loseWaitingPost_locked (line : Nat) : (s.loseWaitingPost line).locked = s.locked := by
  rw [State.loseWaitingPost_frame]
@[simp] theorem State.loseWaitingPost_probe (line : Nat) : (s.loseWaitingPost line).probe = s.probe := by
  rw [State.loseWaitingPost_frame]
@[simp] theorem State.loseWaitingPost_membership (line : Nat) : (s.loseWaitingPost line).membership = s.membership := by
  rw [State.loseWaitingPost_frame]
@[simp] theorem State.loseWaitingPost_drainPending (line : Nat) :
    (s.loseWaitingPost line).drainPending = s.drainPending := by
  rw [State.loseWaitingPost_frame]
@[simp] theorem State.loseWaitingPost_access (line : Nat) : (s.loseWaitingPost line).access = s.access := by
  rw [State.loseWaitingPost_frame]
@[simp] theorem State.loseWaitingPost_completion (line : Nat) : (s.loseWaitingPost line).completion = s.completion := by
  rw [State.loseWaitingPost_frame]
@[simp] theorem State.loseWaitingPost_hold (line : Nat) : (s.loseWaitingPost line).hold = s.hold := by
  rw [State.loseWaitingPost_frame]
@[simp] theorem State.loseWaitingPost_intEnable (line : Nat) : (s.loseWaitingPost line).intEnable = s.intEnable := by
  rw [State.loseWaitingPost_frame]
@[simp] theorem State.loseWaitingPost_commandWord (line : Nat) :
    (s.loseWaitingPost line).commandWord = s.commandWord := by
  rw [State.loseWaitingPost_frame]
@[simp] theorem State.loseWaitingPost_result (line : Nat) : (s.loseWaitingPost line).result = s.result := by
  rw [State.loseWaitingPost_frame]
@[simp] theorem State.loseWaitingPost_slot (line : Nat) (j : SlotNo) : (s.loseWaitingPost line).slot j = s.slot j := by
  simp only [State.slot, State.loseWaitingPost_slots]
@[simp] theorem State.loseWaitingPost_byteAt (line : Nat) (x : Nat) :
    (s.loseWaitingPost line).byteAt x = s.byteAt x :=
  State.byteAt_congr (by simp) (by simp) (by simp) _
@[simp] theorem State.loseWaitingPost_lineBytes (line : Nat) (l : Nat) :
    (s.loseWaitingPost line).lineBytes l = s.lineBytes l :=
  State.lineBytes_congr (by simp) (by simp) (by simp) _
@[simp] theorem State.loseWaitingPost_lineCode (line : Nat) (l : Nat) :
    (s.loseWaitingPost line).lineCode l = s.lineCode l :=
  State.lineCode_congr (by simp) (by simp) (by simp) _
@[simp] theorem State.loseWaitingPost_checkGood (line : Nat) (l : Nat) :
    (s.loseWaitingPost line).checkGood l = s.checkGood l := by
  simp only [State.checkGood, State.loseWaitingPost_lineCode, State.loseWaitingPost_lineBytes]
@[simp] theorem State.loseWaitingPost_updateSlots (line : Nat) :
    (s.loseWaitingPost line).updateSlots = s.updateSlots := by
  simp only [State.updateSlots, State.loseWaitingPost_slot]
@[simp] theorem State.loseWaitingPost_window (line : Nat) : (s.loseWaitingPost line).window = s.window := by
  simp only [State.window, State.loseWaitingPost_config]
@[simp] theorem State.loseWaitingPost_isHeld (line : Nat) (l : Nat) :
    (s.loseWaitingPost line).isHeld l = s.isHeld l := by
  simp only [State.isHeld, State.loseWaitingPost_hold]

/-! ## checkFailure -/

@[simp] theorem State.checkFailure_pending (line : Nat) : (s.checkFailure line).pending = s.pending := by
  rw [State.checkFailure_frame]
@[simp] theorem State.checkFailure_now (line : Nat) : (s.checkFailure line).now = s.now := by
  rw [State.checkFailure_frame]
@[simp] theorem State.checkFailure_freeCount (line : Nat) : (s.checkFailure line).freeCount = s.freeCount := by
  rw [State.checkFailure_frame]
@[simp] theorem State.checkFailure_resetCount (line : Nat) : (s.checkFailure line).resetCount = s.resetCount := by
  rw [State.checkFailure_frame]
@[simp] theorem State.checkFailure_phase (line : Nat) : (s.checkFailure line).phase = s.phase := by
  rw [State.checkFailure_frame]
@[simp] theorem State.checkFailure_mem (line : Nat) : (s.checkFailure line).mem = s.mem := by
  rw [State.checkFailure_frame]
@[simp] theorem State.checkFailure_codes (line : Nat) : (s.checkFailure line).codes = s.codes := by
  rw [State.checkFailure_frame]
@[simp] theorem State.checkFailure_query (line : Nat) : (s.checkFailure line).query = s.query := by
  rw [State.checkFailure_frame]
@[simp] theorem State.checkFailure_applyQueue (line : Nat) : (s.checkFailure line).applyQueue = s.applyQueue := by
  rw [State.checkFailure_frame]
@[simp] theorem State.checkFailure_receiving (line : Nat) : (s.checkFailure line).receiving = s.receiving := by
  rw [State.checkFailure_frame]
@[simp] theorem State.checkFailure_carrier (line : Nat) : (s.checkFailure line).carrier = s.carrier := by
  rw [State.checkFailure_frame]
@[simp] theorem State.checkFailure_slots (line : Nat) : (s.checkFailure line).slots = s.slots := by
  rw [State.checkFailure_frame]
@[simp] theorem State.checkFailure_dueCount (line : Nat) : (s.checkFailure line).dueCount = s.dueCount := by
  rw [State.checkFailure_frame]
@[simp] theorem State.checkFailure_build (line : Nat) : (s.checkFailure line).build = s.build := by
  rw [State.checkFailure_frame]
@[simp] theorem State.checkFailure_answerQueue (line : Nat) : (s.checkFailure line).answerQueue = s.answerQueue := by
  rw [State.checkFailure_frame]
@[simp] theorem State.checkFailure_sweep (line : Nat) : (s.checkFailure line).sweep = s.sweep := by
  rw [State.checkFailure_frame]
@[simp] theorem State.checkFailure_fifo (line : Nat) : (s.checkFailure line).fifo = s.fifo := by
  rw [State.checkFailure_frame]
@[simp] theorem State.checkFailure_place (line : Nat) : (s.checkFailure line).place = s.place := by
  rw [State.checkFailure_frame]
@[simp] theorem State.checkFailure_sending (line : Nat) : (s.checkFailure line).sending = s.sending := by
  rw [State.checkFailure_frame]
@[simp] theorem State.checkFailure_linkMode (line : Nat) : (s.checkFailure line).linkMode = s.linkMode := by
  rw [State.checkFailure_frame]
@[simp] theorem State.checkFailure_switchAsked (line : Nat) : (s.checkFailure line).switchAsked = s.switchAsked := by
  rw [State.checkFailure_frame]
@[simp] theorem State.checkFailure_station (line : Nat) : (s.checkFailure line).station = s.station := by
  rw [State.checkFailure_frame]
@[simp] theorem State.checkFailure_config (line : Nat) : (s.checkFailure line).config = s.config := by
  rw [State.checkFailure_frame]
@[simp] theorem State.checkFailure_locked (line : Nat) : (s.checkFailure line).locked = s.locked := by
  rw [State.checkFailure_frame]
@[simp] theorem State.checkFailure_probe (line : Nat) : (s.checkFailure line).probe = s.probe := by
  rw [State.checkFailure_frame]
@[simp] theorem State.checkFailure_membership (line : Nat) : (s.checkFailure line).membership = s.membership := by
  rw [State.checkFailure_frame]
@[simp] theorem State.checkFailure_drainPending (line : Nat) : (s.checkFailure line).drainPending = s.drainPending := by
  rw [State.checkFailure_frame]
@[simp] theorem State.checkFailure_access (line : Nat) : (s.checkFailure line).access = s.access := by
  rw [State.checkFailure_frame]
@[simp] theorem State.checkFailure_completion (line : Nat) : (s.checkFailure line).completion = s.completion := by
  rw [State.checkFailure_frame]
@[simp] theorem State.checkFailure_hold (line : Nat) : (s.checkFailure line).hold = s.hold := by
  rw [State.checkFailure_frame]
@[simp] theorem State.checkFailure_intEnable (line : Nat) : (s.checkFailure line).intEnable = s.intEnable := by
  rw [State.checkFailure_frame]
@[simp] theorem State.checkFailure_commandWord (line : Nat) : (s.checkFailure line).commandWord = s.commandWord := by
  rw [State.checkFailure_frame]
@[simp] theorem State.checkFailure_result (line : Nat) : (s.checkFailure line).result = s.result := by
  rw [State.checkFailure_frame]
@[simp] theorem State.checkFailure_slot (line : Nat) (j : SlotNo) : (s.checkFailure line).slot j = s.slot j := by
  simp only [State.slot, State.checkFailure_slots]
@[simp] theorem State.checkFailure_byteAt (line : Nat) (x : Nat) : (s.checkFailure line).byteAt x = s.byteAt x :=
  State.byteAt_congr (by simp) (by simp) (by simp) _
@[simp] theorem State.checkFailure_lineBytes (line : Nat) (l : Nat) :
    (s.checkFailure line).lineBytes l = s.lineBytes l :=
  State.lineBytes_congr (by simp) (by simp) (by simp) _
@[simp] theorem State.checkFailure_lineCode (line : Nat) (l : Nat) :
    (s.checkFailure line).lineCode l = s.lineCode l :=
  State.lineCode_congr (by simp) (by simp) (by simp) _
@[simp] theorem State.checkFailure_checkGood (line : Nat) (l : Nat) :
    (s.checkFailure line).checkGood l = s.checkGood l := by
  simp only [State.checkGood, State.checkFailure_lineCode, State.checkFailure_lineBytes]
@[simp] theorem State.checkFailure_updateSlots (line : Nat) : (s.checkFailure line).updateSlots = s.updateSlots := by
  simp only [State.updateSlots, State.checkFailure_slot]
@[simp] theorem State.checkFailure_window (line : Nat) : (s.checkFailure line).window = s.window := by
  simp only [State.window, State.checkFailure_config]
@[simp] theorem State.checkFailure_isHeld (line : Nat) (l : Nat) : (s.checkFailure line).isHeld l = s.isHeld l := by
  simp only [State.isHeld, State.checkFailure_hold]

/-! ## abandonSlots -/

@[simp] theorem State.abandonSlots_pending : s.abandonSlots.pending = s.pending := by
  rw [State.abandonSlots_frame]
@[simp] theorem State.abandonSlots_now : s.abandonSlots.now = s.now := by
  rw [State.abandonSlots_frame]
@[simp] theorem State.abandonSlots_freeCount : s.abandonSlots.freeCount = s.freeCount := by
  rw [State.abandonSlots_frame]
@[simp] theorem State.abandonSlots_resetCount : s.abandonSlots.resetCount = s.resetCount := by
  rw [State.abandonSlots_frame]
@[simp] theorem State.abandonSlots_phase : s.abandonSlots.phase = s.phase := by
  rw [State.abandonSlots_frame]
@[simp] theorem State.abandonSlots_mem : s.abandonSlots.mem = s.mem := by
  rw [State.abandonSlots_frame]
@[simp] theorem State.abandonSlots_codes : s.abandonSlots.codes = s.codes := by
  rw [State.abandonSlots_frame]
@[simp] theorem State.abandonSlots_query : s.abandonSlots.query = s.query := by
  rw [State.abandonSlots_frame]
@[simp] theorem State.abandonSlots_applyQueue : s.abandonSlots.applyQueue = s.applyQueue := by
  rw [State.abandonSlots_frame]
@[simp] theorem State.abandonSlots_receiving : s.abandonSlots.receiving = s.receiving := by
  rw [State.abandonSlots_frame]
@[simp] theorem State.abandonSlots_carrier : s.abandonSlots.carrier = s.carrier := by
  rw [State.abandonSlots_frame]
@[simp] theorem State.abandonSlots_dueCount : s.abandonSlots.dueCount = s.dueCount := by
  rw [State.abandonSlots_frame]
@[simp] theorem State.abandonSlots_build : s.abandonSlots.build = s.build := by
  rw [State.abandonSlots_frame]
@[simp] theorem State.abandonSlots_repairList : s.abandonSlots.repairList = s.repairList := by
  rw [State.abandonSlots_frame]
@[simp] theorem State.abandonSlots_answerQueue : s.abandonSlots.answerQueue = s.answerQueue := by
  rw [State.abandonSlots_frame]
@[simp] theorem State.abandonSlots_sweep : s.abandonSlots.sweep = s.sweep := by
  rw [State.abandonSlots_frame]
@[simp] theorem State.abandonSlots_fifo : s.abandonSlots.fifo = s.fifo := by
  rw [State.abandonSlots_frame]
@[simp] theorem State.abandonSlots_place : s.abandonSlots.place = s.place := by
  rw [State.abandonSlots_frame]
@[simp] theorem State.abandonSlots_sending : s.abandonSlots.sending = s.sending := by
  rw [State.abandonSlots_frame]
@[simp] theorem State.abandonSlots_linkMode : s.abandonSlots.linkMode = s.linkMode := by
  rw [State.abandonSlots_frame]
@[simp] theorem State.abandonSlots_switchAsked : s.abandonSlots.switchAsked = s.switchAsked := by
  rw [State.abandonSlots_frame]
@[simp] theorem State.abandonSlots_station : s.abandonSlots.station = s.station := by
  rw [State.abandonSlots_frame]
@[simp] theorem State.abandonSlots_config : s.abandonSlots.config = s.config := by
  rw [State.abandonSlots_frame]
@[simp] theorem State.abandonSlots_locked : s.abandonSlots.locked = s.locked := by
  rw [State.abandonSlots_frame]
@[simp] theorem State.abandonSlots_probe : s.abandonSlots.probe = s.probe := by
  rw [State.abandonSlots_frame]
@[simp] theorem State.abandonSlots_membership : s.abandonSlots.membership = s.membership := by
  rw [State.abandonSlots_frame]
@[simp] theorem State.abandonSlots_drainPending : s.abandonSlots.drainPending = s.drainPending := by
  rw [State.abandonSlots_frame]
@[simp] theorem State.abandonSlots_access : s.abandonSlots.access = s.access := by
  rw [State.abandonSlots_frame]
@[simp] theorem State.abandonSlots_completion : s.abandonSlots.completion = s.completion := by
  rw [State.abandonSlots_frame]
@[simp] theorem State.abandonSlots_hold : s.abandonSlots.hold = s.hold := by
  rw [State.abandonSlots_frame]
@[simp] theorem State.abandonSlots_intEnable : s.abandonSlots.intEnable = s.intEnable := by
  rw [State.abandonSlots_frame]
@[simp] theorem State.abandonSlots_commandWord : s.abandonSlots.commandWord = s.commandWord := by
  rw [State.abandonSlots_frame]
@[simp] theorem State.abandonSlots_result : s.abandonSlots.result = s.result := by
  rw [State.abandonSlots_frame]
@[simp] theorem State.abandonSlots_notices : s.abandonSlots.notices = s.notices := by
  rw [State.abandonSlots_frame]
@[simp] theorem State.abandonSlots_byteAt (x : Nat) : s.abandonSlots.byteAt x = s.byteAt x :=
  State.byteAt_congr (by simp) (by simp) (by simp) _
@[simp] theorem State.abandonSlots_lineBytes (l : Nat) : s.abandonSlots.lineBytes l = s.lineBytes l :=
  State.lineBytes_congr (by simp) (by simp) (by simp) _
@[simp] theorem State.abandonSlots_lineCode (l : Nat) : s.abandonSlots.lineCode l = s.lineCode l :=
  State.lineCode_congr (by simp) (by simp) (by simp) _
@[simp] theorem State.abandonSlots_checkGood (l : Nat) : s.abandonSlots.checkGood l = s.checkGood l := by
  simp only [State.checkGood, State.abandonSlots_lineCode, State.abandonSlots_lineBytes]
@[simp] theorem State.abandonSlots_window : s.abandonSlots.window = s.window := by
  simp only [State.window, State.abandonSlots_config]
@[simp] theorem State.abandonSlots_isHeld (l : Nat) : s.abandonSlots.isHeld l = s.isHeld l := by
  simp only [State.isHeld, State.abandonSlots_hold]

/-! ## withdraw -/

@[simp] theorem State.withdraw_pending (test : List Byte → Bool) : (s.withdraw test).pending = s.pending := by
  rw [State.withdraw_frame]
@[simp] theorem State.withdraw_now (test : List Byte → Bool) : (s.withdraw test).now = s.now := by
  rw [State.withdraw_frame]
@[simp] theorem State.withdraw_freeCount (test : List Byte → Bool) : (s.withdraw test).freeCount = s.freeCount := by
  rw [State.withdraw_frame]
@[simp] theorem State.withdraw_resetCount (test : List Byte → Bool) : (s.withdraw test).resetCount = s.resetCount := by
  rw [State.withdraw_frame]
@[simp] theorem State.withdraw_phase (test : List Byte → Bool) : (s.withdraw test).phase = s.phase := by
  rw [State.withdraw_frame]
@[simp] theorem State.withdraw_mem (test : List Byte → Bool) : (s.withdraw test).mem = s.mem := by
  rw [State.withdraw_frame]
@[simp] theorem State.withdraw_codes (test : List Byte → Bool) : (s.withdraw test).codes = s.codes := by
  rw [State.withdraw_frame]
@[simp] theorem State.withdraw_lines (test : List Byte → Bool) : (s.withdraw test).lines = s.lines := by
  rw [State.withdraw_frame]
@[simp] theorem State.withdraw_query (test : List Byte → Bool) : (s.withdraw test).query = s.query := by
  rw [State.withdraw_frame]
@[simp] theorem State.withdraw_applyQueue (test : List Byte → Bool) : (s.withdraw test).applyQueue = s.applyQueue := by
  rw [State.withdraw_frame]
@[simp] theorem State.withdraw_receiving (test : List Byte → Bool) : (s.withdraw test).receiving = s.receiving := by
  rw [State.withdraw_frame]
@[simp] theorem State.withdraw_carrier (test : List Byte → Bool) : (s.withdraw test).carrier = s.carrier := by
  rw [State.withdraw_frame]
@[simp] theorem State.withdraw_postList (test : List Byte → Bool) : (s.withdraw test).postList = s.postList := by
  rw [State.withdraw_frame]
@[simp] theorem State.withdraw_slots (test : List Byte → Bool) : (s.withdraw test).slots = s.slots := by
  rw [State.withdraw_frame]
@[simp] theorem State.withdraw_dueCount (test : List Byte → Bool) : (s.withdraw test).dueCount = s.dueCount := by
  rw [State.withdraw_frame]
@[simp] theorem State.withdraw_build (test : List Byte → Bool) : (s.withdraw test).build = s.build := by
  rw [State.withdraw_frame]
@[simp] theorem State.withdraw_repairList (test : List Byte → Bool) : (s.withdraw test).repairList = s.repairList := by
  rw [State.withdraw_frame]
@[simp] theorem State.withdraw_answerQueue (test : List Byte → Bool) :
    (s.withdraw test).answerQueue = s.answerQueue := by
  rw [State.withdraw_frame]
@[simp] theorem State.withdraw_sweep (test : List Byte → Bool) : (s.withdraw test).sweep = s.sweep := by
  rw [State.withdraw_frame]
@[simp] theorem State.withdraw_fifo (test : List Byte → Bool) : (s.withdraw test).fifo = s.fifo := by
  rw [State.withdraw_frame]
@[simp] theorem State.withdraw_sending (test : List Byte → Bool) : (s.withdraw test).sending = s.sending := by
  rw [State.withdraw_frame]
@[simp] theorem State.withdraw_linkMode (test : List Byte → Bool) : (s.withdraw test).linkMode = s.linkMode := by
  rw [State.withdraw_frame]
@[simp] theorem State.withdraw_switchAsked (test : List Byte → Bool) :
    (s.withdraw test).switchAsked = s.switchAsked := by
  rw [State.withdraw_frame]
@[simp] theorem State.withdraw_station (test : List Byte → Bool) : (s.withdraw test).station = s.station := by
  rw [State.withdraw_frame]
@[simp] theorem State.withdraw_config (test : List Byte → Bool) : (s.withdraw test).config = s.config := by
  rw [State.withdraw_frame]
@[simp] theorem State.withdraw_locked (test : List Byte → Bool) : (s.withdraw test).locked = s.locked := by
  rw [State.withdraw_frame]
@[simp] theorem State.withdraw_probe (test : List Byte → Bool) : (s.withdraw test).probe = s.probe := by
  rw [State.withdraw_frame]
@[simp] theorem State.withdraw_membership (test : List Byte → Bool) : (s.withdraw test).membership = s.membership := by
  rw [State.withdraw_frame]
@[simp] theorem State.withdraw_drainPending (test : List Byte → Bool) :
    (s.withdraw test).drainPending = s.drainPending := by
  rw [State.withdraw_frame]
@[simp] theorem State.withdraw_access (test : List Byte → Bool) : (s.withdraw test).access = s.access := by
  rw [State.withdraw_frame]
@[simp] theorem State.withdraw_completion (test : List Byte → Bool) : (s.withdraw test).completion = s.completion := by
  rw [State.withdraw_frame]
@[simp] theorem State.withdraw_hold (test : List Byte → Bool) : (s.withdraw test).hold = s.hold := by
  rw [State.withdraw_frame]
@[simp] theorem State.withdraw_intEnable (test : List Byte → Bool) : (s.withdraw test).intEnable = s.intEnable := by
  rw [State.withdraw_frame]
@[simp] theorem State.withdraw_commandWord (test : List Byte → Bool) :
    (s.withdraw test).commandWord = s.commandWord := by
  rw [State.withdraw_frame]
@[simp] theorem State.withdraw_result (test : List Byte → Bool) : (s.withdraw test).result = s.result := by
  rw [State.withdraw_frame]
@[simp] theorem State.withdraw_notices (test : List Byte → Bool) : (s.withdraw test).notices = s.notices := by
  rw [State.withdraw_frame]
@[simp] theorem State.withdraw_lineRec (test : List Byte → Bool) (l : Nat) :
    (s.withdraw test).lineRec l = s.lineRec l :=
  State.lineRec_congr (by simp) _
@[simp] theorem State.withdraw_slot (test : List Byte → Bool) (j : SlotNo) : (s.withdraw test).slot j = s.slot j := by
  simp only [State.slot, State.withdraw_slots]
@[simp] theorem State.withdraw_byteAt (test : List Byte → Bool) (x : Nat) :
    (s.withdraw test).byteAt x = s.byteAt x :=
  State.byteAt_congr (by simp) (by simp) (by simp) _
@[simp] theorem State.withdraw_lineBytes (test : List Byte → Bool) (l : Nat) :
    (s.withdraw test).lineBytes l = s.lineBytes l :=
  State.lineBytes_congr (by simp) (by simp) (by simp) _
@[simp] theorem State.withdraw_lineCode (test : List Byte → Bool) (l : Nat) :
    (s.withdraw test).lineCode l = s.lineCode l :=
  State.lineCode_congr (by simp) (by simp) (by simp) _
@[simp] theorem State.withdraw_checkGood (test : List Byte → Bool) (l : Nat) :
    (s.withdraw test).checkGood l = s.checkGood l := by
  simp only [State.checkGood, State.withdraw_lineCode, State.withdraw_lineBytes]
@[simp] theorem State.withdraw_updateSlots (test : List Byte → Bool) :
    (s.withdraw test).updateSlots = s.updateSlots := by
  simp only [State.updateSlots, State.withdraw_slot]
@[simp] theorem State.withdraw_window (test : List Byte → Bool) : (s.withdraw test).window = s.window := by
  simp only [State.window, State.withdraw_config]
@[simp] theorem State.withdraw_isHeld (test : List Byte → Bool) (l : Nat) :
    (s.withdraw test).isHeld l = s.isHeld l := by
  simp only [State.isHeld, State.withdraw_hold]

/-! ## resumeCleared -/

@[simp] theorem State.resumeCleared_pending : s.resumeCleared.pending = s.pending := by
  rw [State.resumeCleared_frame]
@[simp] theorem State.resumeCleared_now : s.resumeCleared.now = s.now := by
  rw [State.resumeCleared_frame]
@[simp] theorem State.resumeCleared_freeCount : s.resumeCleared.freeCount = s.freeCount := by
  rw [State.resumeCleared_frame]
@[simp] theorem State.resumeCleared_resetCount : s.resumeCleared.resetCount = s.resetCount := by
  rw [State.resumeCleared_frame]
@[simp] theorem State.resumeCleared_phase : s.resumeCleared.phase = s.phase := by
  rw [State.resumeCleared_frame]
@[simp] theorem State.resumeCleared_mem : s.resumeCleared.mem = s.mem := by
  rw [State.resumeCleared_frame]
@[simp] theorem State.resumeCleared_codes : s.resumeCleared.codes = s.codes := by
  rw [State.resumeCleared_frame]
@[simp] theorem State.resumeCleared_lines : s.resumeCleared.lines = s.lines := by
  rw [State.resumeCleared_frame]
@[simp] theorem State.resumeCleared_query : s.resumeCleared.query = s.query := by
  rw [State.resumeCleared_frame]
@[simp] theorem State.resumeCleared_applyQueue : s.resumeCleared.applyQueue = s.applyQueue := by
  rw [State.resumeCleared_frame]
@[simp] theorem State.resumeCleared_receiving : s.resumeCleared.receiving = s.receiving := by
  rw [State.resumeCleared_frame]
@[simp] theorem State.resumeCleared_carrier : s.resumeCleared.carrier = s.carrier := by
  rw [State.resumeCleared_frame]
@[simp] theorem State.resumeCleared_postList : s.resumeCleared.postList = s.postList := by
  rw [State.resumeCleared_frame]
@[simp] theorem State.resumeCleared_slots : s.resumeCleared.slots = s.slots := by
  rw [State.resumeCleared_frame]
@[simp] theorem State.resumeCleared_dueCount : s.resumeCleared.dueCount = s.dueCount := by
  rw [State.resumeCleared_frame]
@[simp] theorem State.resumeCleared_build : s.resumeCleared.build = s.build := by
  rw [State.resumeCleared_frame]
@[simp] theorem State.resumeCleared_repairList : s.resumeCleared.repairList = s.repairList := by
  rw [State.resumeCleared_frame]
@[simp] theorem State.resumeCleared_answerQueue : s.resumeCleared.answerQueue = s.answerQueue := by
  rw [State.resumeCleared_frame]
@[simp] theorem State.resumeCleared_sweep : s.resumeCleared.sweep = s.sweep := by
  rw [State.resumeCleared_frame]
@[simp] theorem State.resumeCleared_fifo : s.resumeCleared.fifo = s.fifo := by
  rw [State.resumeCleared_frame]
@[simp] theorem State.resumeCleared_place : s.resumeCleared.place = s.place := by
  rw [State.resumeCleared_frame]
@[simp] theorem State.resumeCleared_sending : s.resumeCleared.sending = s.sending := by
  rw [State.resumeCleared_frame]
@[simp] theorem State.resumeCleared_linkMode : s.resumeCleared.linkMode = s.linkMode := by
  rw [State.resumeCleared_frame]
@[simp] theorem State.resumeCleared_switchAsked : s.resumeCleared.switchAsked = s.switchAsked := by
  rw [State.resumeCleared_frame]
@[simp] theorem State.resumeCleared_station : s.resumeCleared.station = s.station := by
  rw [State.resumeCleared_frame]
@[simp] theorem State.resumeCleared_config : s.resumeCleared.config = s.config := by
  rw [State.resumeCleared_frame]
@[simp] theorem State.resumeCleared_locked : s.resumeCleared.locked = s.locked := by
  rw [State.resumeCleared_frame]
@[simp] theorem State.resumeCleared_probe : s.resumeCleared.probe = s.probe := by
  rw [State.resumeCleared_frame]
@[simp] theorem State.resumeCleared_membership : s.resumeCleared.membership = s.membership := by
  rw [State.resumeCleared_frame]
@[simp] theorem State.resumeCleared_drainPending : s.resumeCleared.drainPending = s.drainPending := by
  rw [State.resumeCleared_frame]
@[simp] theorem State.resumeCleared_hold : s.resumeCleared.hold = s.hold := by
  rw [State.resumeCleared_frame]
@[simp] theorem State.resumeCleared_intEnable : s.resumeCleared.intEnable = s.intEnable := by
  rw [State.resumeCleared_frame]
@[simp] theorem State.resumeCleared_commandWord : s.resumeCleared.commandWord = s.commandWord := by
  rw [State.resumeCleared_frame]
@[simp] theorem State.resumeCleared_result : s.resumeCleared.result = s.result := by
  rw [State.resumeCleared_frame]
@[simp] theorem State.resumeCleared_lineRec (l : Nat) : s.resumeCleared.lineRec l = s.lineRec l :=
  State.lineRec_congr (by simp) _
@[simp] theorem State.resumeCleared_slot (j : SlotNo) : s.resumeCleared.slot j = s.slot j := by
  simp only [State.slot, State.resumeCleared_slots]
@[simp] theorem State.resumeCleared_byteAt (x : Nat) : s.resumeCleared.byteAt x = s.byteAt x :=
  State.byteAt_congr (by simp) (by simp) (by simp) _
@[simp] theorem State.resumeCleared_lineBytes (l : Nat) : s.resumeCleared.lineBytes l = s.lineBytes l :=
  State.lineBytes_congr (by simp) (by simp) (by simp) _
@[simp] theorem State.resumeCleared_lineCode (l : Nat) : s.resumeCleared.lineCode l = s.lineCode l :=
  State.lineCode_congr (by simp) (by simp) (by simp) _
@[simp] theorem State.resumeCleared_checkGood (l : Nat) : s.resumeCleared.checkGood l = s.checkGood l := by
  simp only [State.checkGood, State.resumeCleared_lineCode, State.resumeCleared_lineBytes]
@[simp] theorem State.resumeCleared_updateSlots : s.resumeCleared.updateSlots = s.updateSlots := by
  simp only [State.updateSlots, State.resumeCleared_slot]
@[simp] theorem State.resumeCleared_window : s.resumeCleared.window = s.window := by
  simp only [State.window, State.resumeCleared_config]
@[simp] theorem State.resumeCleared_isHeld (l : Nat) : s.resumeCleared.isHeld l = s.isHeld l := by
  simp only [State.isHeld, State.resumeCleared_hold]

/-! ## resumeApplied -/

@[simp] theorem State.resumeApplied_pending : s.resumeApplied.pending = s.pending := by
  rw [State.resumeApplied_frame]
@[simp] theorem State.resumeApplied_now : s.resumeApplied.now = s.now := by
  rw [State.resumeApplied_frame]
@[simp] theorem State.resumeApplied_freeCount : s.resumeApplied.freeCount = s.freeCount := by
  rw [State.resumeApplied_frame]
@[simp] theorem State.resumeApplied_resetCount : s.resumeApplied.resetCount = s.resetCount := by
  rw [State.resumeApplied_frame]
@[simp] theorem State.resumeApplied_phase : s.resumeApplied.phase = s.phase := by
  rw [State.resumeApplied_frame]
@[simp] theorem State.resumeApplied_mem : s.resumeApplied.mem = s.mem := by
  rw [State.resumeApplied_frame]
@[simp] theorem State.resumeApplied_codes : s.resumeApplied.codes = s.codes := by
  rw [State.resumeApplied_frame]
@[simp] theorem State.resumeApplied_lines : s.resumeApplied.lines = s.lines := by
  rw [State.resumeApplied_frame]
@[simp] theorem State.resumeApplied_query : s.resumeApplied.query = s.query := by
  rw [State.resumeApplied_frame]
@[simp] theorem State.resumeApplied_applyQueue : s.resumeApplied.applyQueue = s.applyQueue := by
  rw [State.resumeApplied_frame]
@[simp] theorem State.resumeApplied_receiving : s.resumeApplied.receiving = s.receiving := by
  rw [State.resumeApplied_frame]
@[simp] theorem State.resumeApplied_carrier : s.resumeApplied.carrier = s.carrier := by
  rw [State.resumeApplied_frame]
@[simp] theorem State.resumeApplied_postList : s.resumeApplied.postList = s.postList := by
  rw [State.resumeApplied_frame]
@[simp] theorem State.resumeApplied_slots : s.resumeApplied.slots = s.slots := by
  rw [State.resumeApplied_frame]
@[simp] theorem State.resumeApplied_dueCount : s.resumeApplied.dueCount = s.dueCount := by
  rw [State.resumeApplied_frame]
@[simp] theorem State.resumeApplied_build : s.resumeApplied.build = s.build := by
  rw [State.resumeApplied_frame]
@[simp] theorem State.resumeApplied_repairList : s.resumeApplied.repairList = s.repairList := by
  rw [State.resumeApplied_frame]
@[simp] theorem State.resumeApplied_answerQueue : s.resumeApplied.answerQueue = s.answerQueue := by
  rw [State.resumeApplied_frame]
@[simp] theorem State.resumeApplied_sweep : s.resumeApplied.sweep = s.sweep := by
  rw [State.resumeApplied_frame]
@[simp] theorem State.resumeApplied_fifo : s.resumeApplied.fifo = s.fifo := by
  rw [State.resumeApplied_frame]
@[simp] theorem State.resumeApplied_place : s.resumeApplied.place = s.place := by
  rw [State.resumeApplied_frame]
@[simp] theorem State.resumeApplied_sending : s.resumeApplied.sending = s.sending := by
  rw [State.resumeApplied_frame]
@[simp] theorem State.resumeApplied_linkMode : s.resumeApplied.linkMode = s.linkMode := by
  rw [State.resumeApplied_frame]
@[simp] theorem State.resumeApplied_switchAsked : s.resumeApplied.switchAsked = s.switchAsked := by
  rw [State.resumeApplied_frame]
@[simp] theorem State.resumeApplied_station : s.resumeApplied.station = s.station := by
  rw [State.resumeApplied_frame]
@[simp] theorem State.resumeApplied_config : s.resumeApplied.config = s.config := by
  rw [State.resumeApplied_frame]
@[simp] theorem State.resumeApplied_locked : s.resumeApplied.locked = s.locked := by
  rw [State.resumeApplied_frame]
@[simp] theorem State.resumeApplied_probe : s.resumeApplied.probe = s.probe := by
  rw [State.resumeApplied_frame]
@[simp] theorem State.resumeApplied_membership : s.resumeApplied.membership = s.membership := by
  rw [State.resumeApplied_frame]
@[simp] theorem State.resumeApplied_drainPending : s.resumeApplied.drainPending = s.drainPending := by
  rw [State.resumeApplied_frame]
@[simp] theorem State.resumeApplied_completion : s.resumeApplied.completion = s.completion := by
  rw [State.resumeApplied_frame]
@[simp] theorem State.resumeApplied_hold : s.resumeApplied.hold = s.hold := by
  rw [State.resumeApplied_frame]
@[simp] theorem State.resumeApplied_intEnable : s.resumeApplied.intEnable = s.intEnable := by
  rw [State.resumeApplied_frame]
@[simp] theorem State.resumeApplied_commandWord : s.resumeApplied.commandWord = s.commandWord := by
  rw [State.resumeApplied_frame]
@[simp] theorem State.resumeApplied_result : s.resumeApplied.result = s.result := by
  rw [State.resumeApplied_frame]
@[simp] theorem State.resumeApplied_notices : s.resumeApplied.notices = s.notices := by
  rw [State.resumeApplied_frame]
@[simp] theorem State.resumeApplied_lineRec (l : Nat) : s.resumeApplied.lineRec l = s.lineRec l :=
  State.lineRec_congr (by simp) _
@[simp] theorem State.resumeApplied_slot (j : SlotNo) : s.resumeApplied.slot j = s.slot j := by
  simp only [State.slot, State.resumeApplied_slots]
@[simp] theorem State.resumeApplied_byteAt (x : Nat) : s.resumeApplied.byteAt x = s.byteAt x :=
  State.byteAt_congr (by simp) (by simp) (by simp) _
@[simp] theorem State.resumeApplied_lineBytes (l : Nat) : s.resumeApplied.lineBytes l = s.lineBytes l :=
  State.lineBytes_congr (by simp) (by simp) (by simp) _
@[simp] theorem State.resumeApplied_lineCode (l : Nat) : s.resumeApplied.lineCode l = s.lineCode l :=
  State.lineCode_congr (by simp) (by simp) (by simp) _
@[simp] theorem State.resumeApplied_checkGood (l : Nat) : s.resumeApplied.checkGood l = s.checkGood l := by
  simp only [State.checkGood, State.resumeApplied_lineCode, State.resumeApplied_lineBytes]
@[simp] theorem State.resumeApplied_updateSlots : s.resumeApplied.updateSlots = s.updateSlots := by
  simp only [State.updateSlots, State.resumeApplied_slot]
@[simp] theorem State.resumeApplied_window : s.resumeApplied.window = s.window := by
  simp only [State.window, State.resumeApplied_config]
@[simp] theorem State.resumeApplied_isHeld (l : Nat) : s.resumeApplied.isHeld l = s.isHeld l := by
  simp only [State.isHeld, State.resumeApplied_hold]

end Sys2Proof.Machine
end

