-- ==== Sys2Proof/Laws/Specs.lean ====
section
/-! SUPPORT. What the shared operations do, exactly: the record, the lists and the notices after each of them. -/

namespace Sys2Proof.Machine

/-! ## Listing -/

/-- Listing sets the listed mark where the list has room, and changes nothing else of the record (R46, R98, R103). -/
theorem State.listLine_rec (s : State) (line : Nat) :
    (s.listLine line).lineRec line =
      { s.lineRec line with listed := (s.lineRec line).listed || decide (s.repairList.length < 32) } := by
  by_cases h : (s.lineRec line).listed = true
  · rw [State.listLine_of_not s line (.inl h)]
    generalize s.lineRec line = r at h ⊢
    cases r; simp_all
  · by_cases hr : s.repairList.length < 32
    · rw [State.listLine_of_room s line (by simpa using h) hr]
      have : ∀ (r : LineRecord) (q : List RepairEntry),
          ({ s.setRec line r with repairList := q } : State).lineRec line = r := fun r q => State.lineRec_setRec_same s line r
      rw [this]; simp [hr]
    · have h' : (s.lineRec line).listed = false := by simpa using h
      rw [State.listLine_of_not s line (.inr (by omega))]
      generalize s.lineRec line = r at h' ⊢
      cases r; simp_all

/-- A line that is not listed joins the tail where the list has room (R46, R98, R103). -/
theorem State.listLine_repairList (s : State) (line : Nat) :
    (s.listLine line).repairList =
      if (s.lineRec line).listed = true ∨ 32 ≤ s.repairList.length then s.repairList
      else s.repairList ++ [⟨line, s.now⟩] := by
  split
  · next h => rw [State.listLine_of_not s line h]
  · next h =>
    have h1 : (s.lineRec line).listed = false := by
      cases hc : (s.lineRec line).listed
      · rfl
      · exact absurd (.inl hc) h
    rw [State.listLine_of_room s line h1 (by omega)]

/-! ## Check failures -/

/-- The withdrawal of a post returns the stamp to its base and the pending state to what it was without it (R99, R100). -/
theorem State.loseWaitingPost_rec (s : State) (line : Nat) :
    (s.loseWaitingPost line).lineRec line =
      { s.lineRec line with
        stamp := ((s.lineRec line).pending.post.map Post.base).getD (s.lineRec line).stamp
        pending :=
          match (s.lineRec line).pending with
          | .idle | .posted _ => .idle
          | .inflight f | .inflightPosted f _ => .inflight f } := by
  unfold State.loseWaitingPost
  generalize hr : s.lineRec line = r
  obtain ⟨stamp, content, pending, applyPending, watched, listed⟩ := r
  cases pending <;> simp [Pending.post, hr]

theorem State.loseWaitingPost_postList (s : State) (line : Nat) :
    (s.loseWaitingPost line).postList =
      if (s.lineRec line).pending.post.isSome = true then s.postList.filter (· != line) else s.postList := by
  unfold State.loseWaitingPost
  generalize s.lineRec line = r
  obtain ⟨stamp, content, pending, applyPending, watched, listed⟩ := r
  cases pending <;> simp [Pending.post]

/-- LOCAL-LOST is given for a line that held a post (R99 to R101). -/
theorem State.loseWaitingPost_notices (s : State) (line : Nat) :
    (s.loseWaitingPost line).notices =
      if (s.lineRec line).pending.post.isSome = true then placeNotice s.notices (.localLost line) else s.notices := by
  unfold State.loseWaitingPost
  generalize s.lineRec line = r
  obtain ⟨stamp, content, pending, applyPending, watched, listed⟩ := r
  cases pending <;> simp [Pending.post]

/-- A check failure withdraws the post with its stamp, turns the line SUSPECT and lists it (R97 to R101). -/
theorem State.checkFailure_rec (s : State) (line : Nat) :
    (s.checkFailure line).lineRec line =
      { s.lineRec line with
        stamp := ((s.lineRec line).pending.post.map Post.base).getD (s.lineRec line).stamp
        content := .suspect
        pending :=
          match (s.lineRec line).pending with
          | .idle | .posted _ => .idle
          | .inflight f | .inflightPosted f _ => .inflight f
        listed := (s.lineRec line).listed || decide (s.repairList.length < 32) } := by
  unfold State.checkFailure
  dsimp only
  rw [State.listLine_rec, State.lineRec_setRec_same, State.loseWaitingPost_rec]
  simp

theorem State.checkFailure_repairList (s : State) (line : Nat) :
    (s.checkFailure line).repairList =
      if (s.lineRec line).listed = true ∨ 32 ≤ s.repairList.length then s.repairList
      else s.repairList ++ [⟨line, s.now⟩] := by
  unfold State.checkFailure
  dsimp only
  rw [State.listLine_repairList, State.lineRec_setRec_same, State.loseWaitingPost_rec]
  simp

theorem State.checkFailure_postList (s : State) (line : Nat) :
    (s.checkFailure line).postList =
      if (s.lineRec line).pending.post.isSome = true then s.postList.filter (· != line) else s.postList := by
  unfold State.checkFailure
  dsimp only
  rw [State.listLine_postList, State.setRec_postList, State.loseWaitingPost_postList]

theorem State.checkFailure_notices (s : State) (line : Nat) :
    (s.checkFailure line).notices =
      if (s.lineRec line).pending.post.isSome = true then placeNotice s.notices (.localLost line) else s.notices := by
  unfold State.checkFailure
  dsimp only
  rw [State.listLine_notices, State.setRec_notices, State.loseWaitingPost_notices]

/-! ## The end of a flight -/

/-- The pending state after a flight has ended: INFLIGHT becomes IDLE, INFLIGHT_POSTED becomes POSTED, a record that does
not name the slot stays (R71, R82 to R86). -/
theorem State.endFlight_rec (s : State) (i : SlotNo) (line : Nat) (mustFull : Bool) :
    (s.endFlight i line mustFull).lineRec line =
      { s.lineRec line with
        pending :=
          match (s.lineRec line).pending with
          | .inflight f => if f.slot = i then .idle else .inflight f
          | .inflightPosted f p =>
            if f.slot = i then .posted { p with mustFull := p.mustFull || mustFull } else .inflightPosted f p
          | .idle => .idle
          | .posted p => .posted p } := by
  unfold State.endFlight
  generalize hr : s.lineRec line = r
  obtain ⟨stamp, content, pending, applyPending, watched, listed⟩ := r
  cases pending <;> dsimp only
  · exact hr
  · exact hr
  · split
    · simp
    · exact hr
  · split
    · simp
    · exact hr

/-! ## The drain -/

theorem State.drained_congr {s t : State} (hp : t.postList = s.postList) (hs : t.slots = s.slots) :
    t.drained = s.drained := by
  have : t.updateSlots = s.updateSlots := by simp only [State.updateSlots, State.slot, hs]
  simp only [State.drained, hp, this]

/-- The test queues DRAINED COMPLETE where a pending drain finds its condition met (R195). -/
theorem State.drainTest_notices (s : State) :
    s.drainTest.notices =
      if (s.drainPending && s.drained) = true then placeNotice s.notices (.drained .complete) else s.notices := by
  unfold State.drainTest
  split <;> rfl

theorem State.drainTest_drainPending (s : State) : s.drainTest.drainPending = (s.drainPending && !s.drained) := by
  unfold State.drainTest
  cases hp : s.drainPending <;> cases hd : s.drained <;> simp [hp]

@[simp] theorem State.drainTest_drained (s : State) : s.drainTest.drained = s.drained :=
  State.drained_congr (by simp) (by simp)

/-- No UPDATE slot is in use exactly when the count is 0. -/
theorem State.updateSlots_eq_zero (s : State) :
    s.updateSlots = 0 ↔ ∀ i, (s.slot i).isFor .update = false := by
  unfold State.updateSlots
  rw [List.countP_eq_zero]
  constructor
  · intro h i; simpa using h i (mem_allSlots i)
  · intro h i _; simp [h i]

/-- A drain's condition is unmet while an UPDATE slot is in use (R195). -/
theorem State.not_drained_of_slot {s : State} {i : SlotNo} (h : (s.slot i).isFor .update = true) : s.drained = false := by
  have : s.updateSlots ≠ 0 := fun h0 => by
    have := (State.updateSlots_eq_zero s).1 h0 i
    rw [h] at this; cases this
  simp [State.drained, this]

/-- Where the condition is unmet the test changes nothing. -/
theorem State.drainTest_of_not_drained {s : State} (h : s.drained = false) : s.drainTest = s := by
  unfold State.drainTest
  simp [h]

/-! ## Slots -/

theorem State.lineRec_freeSlot (s : State) (i : SlotNo) (l : Nat) : (s.freeSlot i).lineRec l = s.lineRec l := rfl

/-- The lowest-numbered free slot (R61). -/
theorem State.lowestFree_eq_some {s : State} {i : SlotNo} :
    s.lowestFree = some i ↔ (s.slot i).use = none ∧ ∀ j : SlotNo, j < i → (s.slot j).use ≠ none := by
  have key : ∀ p : SlotNo → Bool, allSlots.find? p = some i ↔ p i = true ∧ ∀ j : SlotNo, j < i → p j = false := by
    intro p
    have hall : allSlots = List.finRange 16 := by decide
    rw [hall, List.find?_eq_some_iff_getElem]
    constructor
    · rintro ⟨hp, k, hk, hi, hj⟩
      refine ⟨hp, fun j hj' => ?_⟩
      have hk' : k = i.val := by rw [← hi]; simp
      have hl : j.val < k := by have : j.val < i.val := hj'; omega
      simpa using hj j.val hl
    · rintro ⟨hp, h⟩
      refine ⟨hp, i.val, by simp, by simp, fun j hj => ?_⟩
      have hj' : j < 16 := by have := i.isLt; omega
      simpa using h ⟨j, hj'⟩ hj
  unfold State.lowestFree
  rw [key]
  simp [← Option.isSome_iff_ne_none]

theorem State.lowestFree_eq_none {s : State} : s.lowestFree = none ↔ ∀ i, (s.slot i).use ≠ none := by
  unfold State.lowestFree
  rw [List.find?_eq_none]
  constructor
  · intro h i; simpa using h i (mem_allSlots i)
  · intro h i _; simpa using h i

/-! ## The course of a replica access -/

/-- While CLEARING is shown an access waits (R15). -/
theorem State.takeAccess_of_clearing (s : State) (a : Access) (h : s.clearingShown = true) :
    s.takeAccess a = { s with access := some { a with phase := .clearing }, completion := none } := by
  simp [State.takeAccess, h]

/-- An access to a line outside the window completes with LERR (R2, R49, R174). -/
theorem State.takeAccess_of_beyond (s : State) (a : Access) (h : s.clearingShown = false)
    (hw : s.inWindow (lineOf a.la) = false) : s.takeAccess a = s.fail a.kind := by
  simp [State.takeAccess, h, hw]

/-- A write with no byte enabled completes with LRDY (R49, R176). -/
theorem State.takeAccess_of_noByte (s : State) (a : Access) (ld : Word) (h : s.clearingShown = false)
    (hw : s.inWindow (lineOf a.la) = true) (hk : a.kind = .write 0 ld) : s.takeAccess a = s.complete true none := by
  simp [State.takeAccess, h, hw, hk]

/-- Every other access goes on to steps 3 to 5 (R49, R174). -/
theorem State.takeAccess_of_admitted (s : State) (a : Access) (h : s.clearingShown = false)
    (hw : s.inWindow (lineOf a.la) = true) (hk : ∀ ld, a.kind ≠ .write 0 ld) : s.takeAccess a = s.admitAccess a := by
  unfold State.takeAccess
  cases hkind : a.kind with
  | read => simp [h, hw]
  | write be ld =>
    have : be ≠ 0 := fun e => hk ld (by rw [hkind, e])
    simp only [h, hw, Bool.not_true, Bool.false_eq_true, if_false, if_neg this]

/-- The end of CLEARING takes an access that waited for it (R15). -/
theorem State.resumeCleared_of_waiting (s : State) (a : Access) (ha : s.access = some a) (hp : a.phase = .clearing) :
    s.resumeCleared = s.takeAccess a := by
  simp [State.resumeCleared, ha, hp]

/-- The end of CLEARING leaves every other access as it is. -/
theorem State.resumeCleared_of_not_waiting (s : State) (h : ∀ a, s.access = some a → a.phase ≠ .clearing) :
    s.resumeCleared = s := by
  unfold State.resumeCleared
  split
  · next a ha => rw [if_neg (h a ha)]
  · rfl

/-- An access that waited for apply pending presents its claim when its line keeps it waiting no longer, and no other access
changes (R49, R174, R176). -/
theorem State.resumeApplied_access (s : State) :
    s.resumeApplied.access =
      s.access.map fun a =>
        if a.phase = .apply ∧ s.keepsWaiting (lineOf a.la) = false then { a with phase := .claim } else a := by
  unfold State.resumeApplied
  split
  · next a ha =>
    split
    · next h => simp [ha, h]
    · next h => simp [ha, h]
  · next ha => simp [ha]

/-! ## The granted write -/

/-- A write that finds a failing check is refused, with the first reason of R50 that applies: OVERTAKEN, STALE or SUSPECT. -/
theorem State.writeRefusal_of_bad (s : State) (line : Nat) :
    s.writeRefusal line false =
      some
        (if s.isHeld line && (s.lineRec line).applyPending then .overtaken
        else if (s.lineRec line).content = .stale then .stale else .suspect) := by
  simp only [State.writeRefusal, Bool.not_false, if_true]
  split
  · rfl
  · cases (s.lineRec line).content <;> rfl

/-- With a good check, a VALID line that is not overtaken refuses a write only for VERSION-LIMIT (R21, R50). -/
theorem State.writeRefusal_of_valid (s : State) (line : Nat) (hv : (s.lineRec line).content = .valid)
    (hp : (s.lineRec line).applyPending = false) :
    s.writeRefusal line true =
      if (s.lineRec line).beginsPost && (s.lineRec line).stamp.version == maxVersion then some .versionLimit else none := by
  simp [State.writeRefusal, hv, hp]

/-- A granted write that finds a failing check: the effects of the failure, then the refusal (R3, R50, R97; log 14). -/
theorem State.writeWord_of_bad (s : State) (la : BitVec 15) (be : BitVec 4) (ld : Word) (reason : RefuseReason)
    (h : s.checkGood (lineOf la) = false) (hr : s.writeRefusal (lineOf la) false = some reason) :
    s.writeWord la be ld = ((s.checkFailure (lineOf la)).refuseWrite (lineOf la) reason).drainTest := by
  simp [State.writeWord, h, hr]

/-- A granted write with a good check that is refused changes nothing but the access (R50). -/
theorem State.writeWord_of_refusal (s : State) (la : BitVec 15) (be : BitVec 4) (ld : Word) (reason : RefuseReason)
    (h : s.checkGood (lineOf la) = true) (hr : s.writeRefusal (lineOf la) true = some reason) :
    s.writeWord la be ld = s.refuseWrite (lineOf la) reason := by
  simp [State.writeWord, h, hr]

/-- A granted write with a good check that no reason refuses is taken (R49). -/
theorem State.writeWord_of_taken (s : State) (la : BitVec 15) (be : BitVec 4) (ld : Word)
    (h : s.checkGood (lineOf la) = true) (hr : s.writeRefusal (lineOf la) true = none) :
    s.writeWord la be ld = s.mergeWrite la be ld := by
  simp [State.writeWord, h, hr]

/-! ## The commands of the port -/

/-- The code field as WellFormed reads it. -/
theorem code_toNat (value : Word) : (value.extractLsb' 24 8).toNat = (value >>> 24).toNat := by
  have := value.isLt
  simp only [BitVec.extractLsb'_toNat, BitVec.toNat_ushiftRight, Nat.shiftRight_eq_div_pow]
  omega

/-- A word whose code names no command is UNKNOWN_COMMAND's (R178, R201). -/
theorem commandOfWord_of_unknown (value : Word) (h : knownCommand value = false) :
    commandOfWord value = .unknownCommand value := by
  simp only [knownCommand, ← code_toNat, Bool.and_eq_false_iff, decide_eq_false_iff_not] at h
  unfold commandOfWord
  split <;> first | rfl | omega

/-- A written word is always a command of the table (R178). -/
theorem commandOfWord_wellFormed (value : Word) : (commandOfWord value).wellFormed = true := by
  cases h : knownCommand value with
  | false => rw [commandOfWord_of_unknown value h]; simp [Instr.wellFormed, h]
  | true => unfold commandOfWord; split <;> simp [Instr.wellFormed]; simp_all [knownCommand]; omega

/-- The command of a write access is always a command of the table (R172, R177, R201). -/
theorem writeCommand_wellFormed (la : BitVec 16) (be : BitVec 4) (ld : Word) (lhold : Bool) :
    (writeCommand la be ld lhold).wellFormed = true := by
  simp only [writeCommand]
  split
  · rfl
  split
  · next h => simp [Instr.wellFormed, h]
  split
  · next h1 h2 h =>
    have : assignedOffset (la.setWidth 6) = true := by
      simp only [assignedOffset, BitVec.toNat_setWidth, decide_eq_true_eq]; omega
    simpa [Instr.wellFormed, this] using h
  split
  · exact commandOfWord_wellFormed ld
  · rfl

end Sys2Proof.Machine
end

