-- ==== Sys2Proof/Tests/Slice0.lean ====
section
/-! SUPPORT. The model's own tests: ill-formed commands refused, the CRC and frame bytes of the spec's examples, one small
step of every command, and for every statement with hypotheses a state and operands that meet them. -/

namespace Sys2Proof.Tests

set_option Elab.async false

open Sys2Proof Sys2Proof.Machine

/-! ## Small states -/

/-- A configuration record in range: station 3, ring span 8, token 77, return limit 100, probe interval 1000, sweep
interval 50, hold limit 10, retry limit 2, window 512, delta enable yes. -/
def cfg : ConfigRecord := ⟨3, 8, 77, 100, 1000, 50, 10, 2, 512, 1⟩

/-- OFFLINE after the clearing pass, configured. -/
def offline : State := { State.reset with phase := .ended, config := cfg }

/-- ONLINE, active on the ring, with a frame in reception. -/
def online : State :=
  { offline with
    station := .online, locked := true, linkMode := .active, carrier := true, receiving := true, membership := 8
    probe := ⟨0, false, none, some 1000, 0⟩, sweep := ⟨0, false, false, some 50⟩ }

/-- The state a command answers. -/
def after (c : Instr) (s : State) : State :=
  match exec c s with
  | .next t => t
  | .fault _ | .refused _ => s

/-- A stamp. -/
def st (v : Nat) (w : Byte) : Stamp := ⟨BitVec.ofNat 48 v, some w⟩

/-- The record of line 12 in the worked sequence 1.10: VALID, IDLE, at 4/7, watched. -/
def rec12 : LineRecord := { LineRecord.reset with stamp := st 4 7, watched := true }

/-- A post of positions 0 to 5 on 4/7. -/
def post12 : Post := ⟨st 4 7, 0xFC000000, false⟩

/-- The line POSTED at 5/3. -/
def posted12 : LineRecord := { rec12 with stamp := st 5 3, pending := .posted post12 }

/-- The line INFLIGHT at 5/3 on slot 0. -/
def inflight12 : LineRecord := { rec12 with stamp := st 5 3, pending := .inflight ⟨0, false⟩ }

/-- The line INFLIGHT_POSTED at 6/3 on slot 0. -/
def waiting12 : LineRecord :=
  { rec12 with stamp := st 6 3, pending := .inflightPosted ⟨0, false⟩ ⟨st 5 3, 1, false⟩ }

/-- ONLINE with one line's record. -/
def withRec (r : LineRecord) : State := online.setRec 12 r

/-- ONLINE with line 12 POSTED. -/
def posted : State := { withRec posted12 with postList := [12] }

/-- An UPDATE slot of line 12 at 5/3. -/
def use12 (due : Option Due) (deadline : Option Nat) : SlotUse := ⟨.update, 12, st 5 3, 0, due, deadline⟩

/-- ONLINE with a record of line 12 and slot 0 tracking it, generation 5. -/
def tracked (r : LineRecord) (u : SlotUse) : State := (withRec r).setSlot 0 ⟨5, some u⟩

/-- A REPAIR slot of line 12. -/
def ask12 (attempts : Nat) (due : Option Due) (deadline : Option Nat) : SlotUse :=
  ⟨.repair, 12, st 5 5, attempts, due, deadline⟩

/-- Line 12 STALE at 5/5 and listed. -/
def stale12 : LineRecord := { rec12 with stamp := st 5 5, content := .stale, listed := true }

/-- ONLINE with line 12 STALE and listed at time 0. -/
def listed : State := { withRec stale12 with repairList := [⟨12, 0⟩] }

/-- 32 bytes. -/
def bytes32 : List Byte := (List.range 32).map fun i => BitVec.ofNat 8 (i + 1)

/-- A FULL of station 5 for line 12. -/
def peerFull (v : Nat) : List Byte := Frame.full false 8 5 0 12 (st v 5) bytes32

/-- A DELTA of station 5 for line 12, positions 8 to 11. -/
def peerDelta (v : Nat) (base : Stamp) : List Byte :=
  Frame.delta 8 5 0 12 (st v 5) base 0x00F00000 [0xA1, 0xA2, 0xA3, 0xA4]

/-- A REQUEST of station 5 for line 12. -/
def peerRequest (v : Nat) : List Byte := Frame.request 8 5 0 12 (st v 5)

/-- A PROBE of station 5. -/
def peerProbe : List Byte := Frame.probe 8 5 9 55 0x20

/-- This station's frame come home from slot 0, generation 4, with MISSED or ANSWERED as the marks say. -/
def home (f : List Byte) (m : Marks) : List Byte := Frame.forwarded f m

/-- This station's FULL for line 12 from slot 0, generation 4. -/
def ownUpdate : List Byte := Frame.full false 8 3 (Frame.slotTag 0 4) 12 (st 5 3) bytes32

/-- This station's REQUEST for line 12 from slot 0, generation 4. -/
def ownAsk : List Byte := Frame.request 8 3 (Frame.slotTag 0 4) 12 (st 5 5)

/-- This station's PROBE with a number and a token. -/
def ownProbe (number : Byte) (token : BitVec 16) : List Byte := Frame.probe 8 3 number token 0x28

/-- A FULL entry for line 12 at 6/5, and a DELTA entry. -/
def entryFull (cause : ApplyCause) (v : Nat) : ApplyEntry := ⟨12, cause, .full, st v 5, Mask.all, bytes32⟩

/-- A DELTA entry for line 12 at 6/5. -/
def entryDelta : ApplyEntry := ⟨12, .raise, .delta, st 6 5, 0x00F00000, [0xA1, 0xA2, 0xA3, 0xA4]⟩

/-- Storage faults that leave the zero line with a wrong code. -/
def struck : Option Upset := some ⟨Vector.replicate 32 0, 0⟩

/-- A read of word 0 of line 12. -/
def read12 (phase : AccessPhase) (lhold : Bool) : Access := ⟨.read, 96, lhold, phase⟩

/-- A write of word 0 of line 12. -/
def write12 (be : BitVec 4) (phase : AccessPhase) (lhold : Bool) : Access := ⟨.write be 0x01020304, 96, lhold, phase⟩

/-! ## Commands of the table -/

theorem test_readOnlyWrite_of_a_writable_word_is_refused : (Instr.readOnlyWrite 4 15 0).wellFormed = false := by decide

theorem test_readOnlyWrite_of_an_unassigned_word_is_refused : (Instr.readOnlyWrite 13 1 0).wellFormed = false := by
  decide

theorem test_unassignedAccess_of_notice_word_two_is_refused :
    (Instr.unassignedAccess 32780 true).wellFormed = false := by decide

theorem test_unknownCommand_of_START_is_refused : (Instr.unknownCommand 0x01000000).wellFormed = false := by decide

theorem test_frameReceivedWhole_of_59_bytes_is_refused :
    (Instr.frameReceivedWhole (List.replicate 59 0) 0).wellFormed = false := by decide

theorem test_commands_at_their_bounds_are_accepted :
    ((Instr.readOnlyWrite 5 15 0).wellFormed && (Instr.readOnlyWrite 12 15 0).wellFormed
      && (Instr.readOnlyWrite 0 14 0).wellFormed && (Instr.unassignedAccess 32781 false).wellFormed
      && (Instr.unknownCommand 0x08000000).wellFormed && (Instr.unknownCommand 0).wellFormed
      && (Instr.frameReceivedWhole (List.replicate 58 0) 0).wellFormed) = true := by decide

theorem test_no_word_spells_a_command : State.reset.withFetchWord 8 1 = State.reset := by decide

/-! ## CRC, stamps and frames of the spec's examples -/

theorem test_crc_of_the_nine_digits :
    Crc.compute [0x31, 0x32, 0x33, 0x34, 0x35, 0x36, 0x37, 0x38, 0x39] = 0x29B1#16 := by decide +kernel

/-- 1.3.1. -/
theorem test_stamp_order_examples :
    ((st 7 3).newer (st 6 31) && (st 6 5).newer (st 6 2) && !(st 6 2).newer (st 6 2)
      && (st 1 0).newer Stamp.blank && (st 0 4).newer Stamp.blank && (Stamp.mk 9 none).newer (st 8 31)) = true := by
  decide

/-- 11.2.1: the header and body of the DELTA of line 12, byte by byte. -/
theorem test_delta_example_bytes :
    (Frame.delta 8 3 (Frame.slotTag 9 4) 12 (st 5 3) (st 4 7) 0xFC000000 [1, 2, 3, 4, 5, 6]).take 30 =
      [0x20, 8, 3, 0x94, 0, 12, 0, 0, 0, 0, 0, 5, 3, 0, 0, 0, 0, 0, 4, 7, 0xFC, 0, 0, 0, 1, 2, 3, 4, 5, 6] := by
  decide +kernel

theorem test_writer_byte_40_is_read_as_none : Frame.writerOf 40 = none ∧ Frame.writerOf 31 = some 31 := by decide

theorem test_blank_stamp_is_sent_as_zeros_and_255 : Frame.stampBytes Stamp.blank = [0, 0, 0, 0, 0, 0, 255] := by decide

/-! ## One step of every command -/

theorem test_reset :
    (after .reset posted).resetAsserted = true ∧ (after .reset posted).lines = []
      ∧ (after .reset posted).station = .offline := by decide +kernel

theorem test_resetRelease : (after .resetRelease (after .reset posted)).phase = .clearing 0 := by decide +kernel

theorem test_clearingPassClaim_of_the_last_line_lets_the_access_go_on :
    (after .clearingPassClaim
      { offline with phase := .clearing 4095, access := some (read12 .clearing false) }).access =
      some (read12 .claim false) := by decide +kernel

theorem test_replicaRead_presents_its_claim :
    (after (.replicaRead 96 false) online).access = some (read12 .claim false) := by decide +kernel

/-- A broken hold refuses a read with LHOLD while the hold limit is not 0 (R184), and none while it is 0 (R180). -/
theorem test_replicaRead_under_a_broken_hold :
    (after (.replicaRead 96 true) { online with hold := .broken 5 }).completion = some ⟨false, some 0⟩
      ∧ (after (.replicaRead 96 true) { offline with hold := .broken 5, config := { cfg with holdLimit := 0 } }).access =
        some (read12 .claim true) := by decide +kernel

theorem test_replicaRead_beyond_the_window_fails :
    (after (.replicaRead 4096 false) online).completion = some ⟨false, some 0⟩ := by decide +kernel

theorem test_readClaimGranted_returns_the_word :
    (after (.readClaimGranted none) { online.writeLine 12 bytes32 with access := some (read12 .claim false) }).completion =
      some ⟨true, some 0x01020304⟩ := by decide +kernel

theorem test_readClaimGranted_of_a_struck_line_turns_it_SUSPECT :
    ((after (.readClaimGranted struck) { posted with access := some (read12 .claim false) }).lineRec 12,
      (after (.readClaimGranted struck) { posted with access := some (read12 .claim false) }).notices) =
      ({ rec12 with content := .suspect, listed := true }, [.localLost 12]) := by decide +kernel

theorem test_replicaWrite_with_no_byte_completes :
    (after (.replicaWrite 96 0 0 false) online).completion = some ⟨true, none⟩ := by decide +kernel

/-- 1.10: the first write. -/
theorem test_writeClaimGranted_begins_a_post :
    ((after (.writeClaimGranted none) { withRec rec12 with access := some (write12 15 .claim false) }).lineRec 12,
      (after (.writeClaimGranted none) { withRec rec12 with access := some (write12 15 .claim false) }).postList) =
      ({ rec12 with stamp := st 5 3, pending := .posted ⟨st 4 7, 0xF0000000, false⟩ }, [12]) := by decide +kernel

/-- A write to a STALE line with a failing code reports STALE, by R50's order, and turns the line SUSPECT (R3, R50, R102). -/
theorem test_writeClaimGranted_verifies_a_stale_line :
    ((after (.writeClaimGranted struck) { listed with access := some (write12 15 .claim false) }).lineRec 12,
      (after (.writeClaimGranted struck) { listed with access := some (write12 15 .claim false) }).notices) =
      ({ stale12 with content := .suspect }, [.writeRefused 12 .stale]) := by decide +kernel

/-- Before the first START the station number field may hold 40, and the stamp carries it (R54, R149). -/
theorem test_writeClaimGranted_writes_the_field_as_writer :
    ((after (.writeClaimGranted none)
        { offline with
          config := { cfg with stationNumber := 40 }, access := some (write12 15 .claim false) }).lineRec 12).stamp =
      ⟨1, some 40⟩ := by decide +kernel

/-- 1.10: the write of position 31 behind the frame in flight. -/
theorem test_writeClaimGranted_begins_a_post_behind_a_flight :
    ((after (.writeClaimGranted none)
        { withRec inflight12 with access := some ⟨.write 1 0xAA, 103, false, .claim⟩ }).lineRec 12).pending =
      .inflightPosted ⟨0, false⟩ ⟨st 5 3, 1, false⟩ := by decide +kernel

theorem test_configWrite : (after (.configWrite 0 0x0308004D) { offline with config := ConfigRecord.reset }).config =
    { ConfigRecord.reset with stationNumber := 3, ringSpan := 8, instanceToken := 77 } := by decide +kernel

theorem test_configWrite_is_locked : (after (.configWrite 0 0) online).result = .locked := by decide +kernel

theorem test_start :
    ((after (.start 0) offline).station, (after (.start 0) offline).sweep.timer, (after (.start 0) offline).probe.due) =
      (.joining, some 50, true) := by decide +kernel

theorem test_leave : ((after (.leave 0) posted).station, (after (.leave 0) posted).linkMode) =
    (.offline, .idleUntilStart) := by decide +kernel

theorem test_drain_completes_at_once : (after (.drain 0) online).notices = [.drained .complete] := by decide +kernel

theorem test_drain_waits_for_a_post : (after (.drain 0) posted).drainPending = true := by decide +kernel

theorem test_watch_beyond_the_window : (after (.watch 512) online).result = .badLine := by decide +kernel

theorem test_unwatch : ((after (.unwatch 12) posted).lineRec 12).watched = false := by decide +kernel

theorem test_query_words :
    ((after (.query 12) posted).controlWord 8, (after (.query 12) posted).controlWord 10) =
      (some 0x000C0312, some 5) := by decide +kernel

theorem test_intenable : (after (.intenable 1) online).intEnable = true := by decide +kernel

theorem test_writeCommand_reads_the_command_word :
    writeCommand 32772 15 0x04FF0123 false = .watch 0x0123 ∧ writeCommand 32772 15 0x01000000 false = .start 0
      ∧ writeCommand 32772 15 0x08000001 false = .unknownCommand 0x08000001
      ∧ writeCommand 32772 7 0x01000000 false = .readOnlyWrite 4 7 0x01000000
      ∧ writeCommand 32771 15 5 false = .configWrite 3 5 ∧ writeCommand 32767 15 5 true = .replicaWrite 32767 15 5 true
      ∧ readCommand 32774 false = some .statusRead ∧ readCommand 32772 false = none := by decide

/-- A write of the command word presented at the port runs as the command it names at the next step of an empty queue. -/
theorem test_presentWrite_of_WATCH_is_taken :
    (match step (online.presentWrite 32772 15 0x0400000C false) with
      | .next t => (t.lineRec 12).watched && t.commandWord == 0x0400000C && t.pending.isEmpty
      | _ => false) = true := by decide +kernel

theorem test_unknownCommand_keeps_its_value : (after (.unknownCommand 0x08FF0001) online).commandWord = 0x08000001 := by
  decide +kernel

theorem test_statusRead : (after .statusRead online).completion = some ⟨true, some 0x20000001⟩ := by decide +kernel

theorem test_noticeRead :
    (after .noticeRead { online with notices := [.superseded 12 (some 5), .ringUp] }).completion =
      some ⟨true, some 0x000C0005⟩ := by decide +kernel

theorem test_readOnlyWrite : (after (.readOnlyWrite 5 15 0) online).completion = some ⟨false, none⟩ := by decide +kernel

theorem test_unassignedAccess : (after (.unassignedAccess 32781 false) online).completion = some ⟨false, some 0⟩ := by
  decide +kernel

theorem test_lholdDeasserted : (after .lholdDeasserted { online with hold := .held 12 10 }).hold = .free := by
  decide +kernel

theorem test_holdBreak_fails_the_waiting_write :
    (after .holdBreak { online with hold := .held 12 10, access := some (write12 15 .apply true) }).notices =
      [.holdBroken 12, .writeRefused 12 .holdBroken] := by decide +kernel

theorem test_frameReceivedWhole_raises_and_queues :
    ((after (.frameReceivedWhole (peerFull 6) 0) posted).lineRec 12,
      (after (.frameReceivedWhole (peerFull 6) 0) posted).notices) =
      ({ rec12 with stamp := st 6 5, applyPending := true }, [.superseded 12 (some 5)]) := by decide +kernel

theorem test_receptionBrokenOff : (after (.receptionBrokenOff .idle) online).receiving = false := by decide +kernel

theorem test_carrierLost_reposts_the_line_in_flight :
    ((after .carrierLost (tracked inflight12 (use12 none none))).station,
      ((after .carrierLost (tracked inflight12 (use12 none none))).lineRec 12).pending,
      (after .carrierLost (tracked inflight12 (use12 none none))).notices) =
      (.isolated, .posted ⟨st 5 3, Mask.all, true⟩, [.ringDown .carrier]) := by decide +kernel

theorem test_carrierRegained : (after .carrierRegained { online with carrier := false }).carrier = true := by
  decide +kernel

theorem test_outputArbiterChoice : (after .outputArbiterChoice { online with place := some ownAsk }).sending = .own := by
  decide +kernel

theorem test_ringOut_of_an_own_frame :
    { online with sending := .own, place := some [0x40, 0x08] }.ringOut =
      .sends [.start, .data 0x40, .data 0x08, .finish] := by decide +kernel

theorem test_insertionComplete_sets_the_deadline :
    ((after .insertionComplete
      { tracked inflight12 (use12 none none) with sending := .own, place := some ownUpdate, now := 7 }).slot 0).use =
      some (use12 none (some 107)) := by decide +kernel

theorem test_switchToActive :
    (after (.switchToActive .brokenByStart) { after (.start 0) offline with carrier := true }).receiving = true := by
  decide +kernel

theorem test_switchToPassThrough :
    (after .switchToPassThrough { online with switchAsked := true, sending := .forwarded 3, fifo := [peerFull 6] }).fifo =
      [] := by decide +kernel

theorem test_framerChoice_builds_the_probe :
    (after .framerChoice { online with probe := ⟨255, true, none, some 1000, 0⟩ }).probe =
      ⟨0, false, some ⟨255, none⟩, some 1000, 0⟩ := by decide +kernel

theorem test_framerChoice_asks_for_a_listed_line :
    (after .framerChoice listed).place =
      some (Frame.request 8 3 (Frame.slotTag 0 0) 12 (st 5 5)) := by decide +kernel

theorem test_framerChoice_stands : (after .framerChoice { posted with build := some .answer }).build = some .answer := by
  decide +kernel

/-- 1.10: the post leaves as a DELTA of six bytes. -/
theorem test_postBuild :
    ((after (.postBuild none) { posted with build := some (.post 12) }).place,
      ((after (.postBuild none) { posted with build := some (.post 12) }).lineRec 12).pending) =
      (some (Frame.delta 8 3 0 12 (st 5 3) (st 4 7) 0xFC000000 [0, 0, 0, 0, 0, 0]), .inflight ⟨0, false⟩) := by
  decide +kernel

theorem test_mendResendBuild :
    ((after (.mendResendBuild none)
      { tracked inflight12 (use12 (some ⟨.mend, 0⟩) none) with build := some (.mendResend 0) }).slot 0) =
      ⟨6, some (use12 none none)⟩ := by decide +kernel

theorem test_replacementBuild :
    ((after (.replacementBuild none)
      { tracked waiting12 (use12 (some ⟨.replacement, 0⟩) none) with
        build := some (.replacement 0), postList := [12] }).lineRec 12).pending = .inflight ⟨0, false⟩ := by
  decide +kernel

theorem test_answerBuild :
    (after (.answerBuild none) { withRec rec12 with build := some .answer, answerQueue := [12] }).place =
      some (Frame.full true 8 3 0 12 (st 4 7) (List.replicate 32 0)) := by decide +kernel

theorem test_sweepRefreshFetch :
    (after (.sweepRefreshFetch none)
      { withRec { rec12 with stamp := st 4 3 } with build := some .sweep, sweep := ⟨12, true, false, some 50⟩ }).sweep =
      ⟨13, false, false, some 50⟩ := by decide +kernel

theorem test_applyFull_heals :
    (after .applyFull
      { withRec { stale12 with applyPending := true } with
        repairList := [⟨12, 0⟩], applyQueue := [entryFull .heal 5] }).lineRec 12 =
      { rec12 with stamp := st 5 5 } := by decide +kernel

theorem test_applyDelta_merges :
    (after (.applyDelta none)
      { withRec { rec12 with stamp := st 6 5, applyPending := true } with applyQueue := [entryDelta] }).mem =
      [(392, 0xA1), (393, 0xA2), (394, 0xA3), (395, 0xA4)] := by decide +kernel

theorem test_updateDeadline_makes_a_resend_due :
    ((after (.updateDeadline 0) (tracked inflight12 (use12 none (some 100)))).slot 0).use =
      some { use12 (some ⟨.resend, 0⟩) none with attempts := 1 } := by decide +kernel

theorem test_repairDeadline_gives_up :
    (after (.repairDeadline 0) (listed.setSlot 0 ⟨5, some (ask12 2 none (some 100))⟩)).notices = [.unrepaired 12] := by
  decide +kernel

theorem test_probeLost_for_the_third_time :
    (after .probeLost { online with probe := ⟨3, false, some ⟨2, some 90⟩, some 1000, 2⟩ }).station = .isolated := by
  decide +kernel

theorem test_probeIntervalExpiry : (after .probeIntervalExpiry online).probe = ⟨0, true, none, some 2000, 0⟩ := by
  decide +kernel

theorem test_sweepTick_lost :
    (after .sweepTick { online with sweep := ⟨0, true, false, some 50⟩ }).sweep = ⟨0, true, true, some 100⟩ := by
  decide +kernel

theorem test_frameInReceptionBegins :
    (after .frameInReceptionBegins { online with receiving := false }).receiving = true := by decide +kernel

theorem test_passThroughRepeatBegins :
    (after .passThroughRepeatBegins { offline with linkMode := .idleUntilStart }).linkMode = .repeating := by
  decide +kernel

/-! ## The hypotheses of the statements are met -/

/-- Every slot of ONLINE is free. -/
theorem no_slot (i : SlotNo) : (online.slot i).use = none := by revert i; decide +kernel

theorem noneDue_online : NoneDue online := fun i u h => by rw [no_slot i] at h; cases h

/-- A line in flight on slot 0, its slot, and nothing else. -/
def flying : State := tracked inflight12 (use12 none none)

theorem flying_lineRec (l : Nat) : flying.lineRec l = if l = 12 then inflight12 else LineRecord.reset := by
  have h : flying.lines = [(12, inflight12)] := by decide +kernel
  simp [State.lineRec, h, Sparse.get]

theorem flying_slot (i : SlotNo) : flying.slot i = if i = 0 then ⟨5, some (use12 none none)⟩ else ⟨0, none⟩ := by
  revert i; decide +kernel

theorem slotsAgree_flying : flying.SlotsAgree := by
  refine ⟨fun l f h => ?_, fun i l h => ?_, fun i j l h => ?_, fun i l h => ?_⟩
  · rw [flying_lineRec] at h
    split at h
    · next e => cases h; subst e; decide +kernel
    · cases h
  · rw [flying_slot] at h
    split at h
    · next e =>
      have : l = 12 := by simp [Slot.names, use12] at h; omega
      subst this e
      exact ⟨⟨0, false⟩, by decide +kernel, rfl⟩
    · simp [Slot.names] at h
  · rw [flying_slot] at h
    split at h <;> simp [Slot.names, use12] at h
  · rw [flying_slot] at h
    split at h <;> simp [Slot.names, use12] at h

theorem test_met_EveryStepAnswersNext : { online with now := 49 }.pending = [] := by decide +kernel

theorem test_met_ResetAndItsRelease : (after .reset online).phase = .asserted := by decide +kernel

theorem test_met_ClearingClaimZeroesItsLine :
    ({ offline with phase := .clearing 0 }.phase = .clearing 0 ∧ 0 < 4096)
      ∧ ({ offline with phase := .clearing 4094 }.phase = .clearing 4094 ∧ 4094 < 4095)
      ∧ (let s := { offline with phase := .clearing 4095, access := some (write12 15 .clearing false) }
        s.phase = .clearing 4095 ∧ 4095 < 4096 ∧ s.access = some (write12 15 .clearing false))
      ∧ { offline with phase := .clearing 4095 }.access = none := by decide +kernel

/-- Each way a replica access is taken: CLEARING, the first line beyond the window, a broken hold with a hold limit and with
none, apply pending on a line that is not held and on the held line, and the last word of the window. -/
theorem test_met_ReplicaAccessesAreTaken :
    (PortTakes State.reset ∧ State.reset.clearingShown = true)
      ∧ (PortTakes online ∧ online.clearingShown = false ∧ online.inWindow (lineOf 4096) = false)
      ∧ (PortTakes { online with hold := .broken 5 } ∧ { online with hold := .broken 5 }.holdIsBroken = true
        ∧ online.config.holdLimit ≠ 0)
      ∧ (PortTakes { offline with hold := .broken 5, config := { cfg with holdLimit := 0 } })
      ∧ (PortTakes (withRec { rec12 with applyPending := true })
        ∧ ((withRec { rec12 with applyPending := true }).lineRec (lineOf 96)).applyPending = true)
      ∧ (PortTakes { withRec { rec12 with applyPending := true } with hold := .held 12 10 }
        ∧ { withRec { rec12 with applyPending := true } with hold := .held 12 10 }.isHeld (lineOf 103) = true)
      ∧ PortTakes online ∧ online.inWindow (lineOf 4095) = true := by decide +kernel

theorem test_met_GrantedReads :
    (GrantActs { online with access := some (read12 .claim false) } (read12 .claim false)
        ∧ (online.strike 12 none).checkGood 12 = true)
      ∧ (GrantActs
          { withRec { stale12 with applyPending := true } with
            access := some (read12 .claim true), hold := .held 12 10, applyQueue := [entryFull .raise 5] }
          (read12 .claim true)
        ∧ ((withRec { stale12 with applyPending := true }).strike 12 none).checkGood 12 = true)
      ∧ GrantActs { posted with access := some (read12 .claim true) } (read12 .claim true)
        ∧ (posted.strike 12 struck).checkGood 12 = false := by
  unfold GrantActs; decide +kernel

theorem test_met_GrantThatFindsApplyPendingWaitsAgain :
    let s := { withRec { rec12 with applyPending := true } with access := some (read12 .claim false) }
    let t := { withRec { rec12 with applyPending := true } with access := some (write12 15 .claim false) }
    (s.access = some (read12 .claim false) ∧ s.grantsLocal = true ∧ (s.lineRec 12).applyPending = true
        ∧ s.isHeld 12 = false)
      ∧ t.grantsLocal = true ∧ (write12 15 .claim false).kind = .write 15 0x01020304 := by decide +kernel

theorem test_met_LocalWriteBeginsAPost :
    let top : LineRecord := { rec12 with stamp := st 281474976710654 7 }
    let meets (r : LineRecord) (a : Access) (be : BitVec 4) : Prop :=
      let s := { withRec r with access := some a }
      (s.access = some a ∧ s.grantsLocal = true ∧ (s.lineRec 12).applyPending = false) ∧ a.kind = .write be 0x01020304
        ∧ lineOf a.la = 12 ∧ (s.lineRec 12).content = .valid ∧ (s.strike 12 none).checkGood 12 = true
        ∧ (s.lineRec 12).pending.post = none ∧ (s.lineRec 12).stamp.version.toNat < 281474976710655
    meets top (write12 15 .claim false) 15 ∧ meets inflight12 (write12 1 .claim true) 1 := by decide +kernel

theorem test_met_LocalWriteJoinsAWaitingPost :
    let meets (r : LineRecord) (a : Access) (be : BitVec 4) (p : Post) : Prop :=
      let s := { withRec r with access := some a }
      (s.access = some a ∧ s.grantsLocal = true ∧ (s.lineRec 12).applyPending = false) ∧ a.kind = .write be 0x01020304
        ∧ lineOf a.la = 12 ∧ (s.lineRec 12).content = .valid ∧ (s.strike 12 none).checkGood 12 = true
        ∧ (s.lineRec 12).pending.post = some p ∧ (s.lineRec 12).stamp.version.toNat < 281474976710655
    meets posted12 (write12 15 .claim false) 15 post12
      ∧ meets waiting12 (write12 8 .claim false) 8 ⟨st 5 3, 1, false⟩
      ∧ meets { posted12 with pending := .posted ⟨st 5 3, Mask.all, true⟩ } (write12 1 .claim false) 1
          ⟨st 5 3, Mask.all, true⟩ := by decide +kernel

theorem test_met_GrantedWriteIsRefusedByItsReasons :
    let top : LineRecord := { rec12 with stamp := st 281474976710655 7 }
    let on (r : LineRecord) : State := { withRec r with access := some (write12 15 .claim false) }
    let held : State :=
      { withRec { rec12 with applyPending := true } with
        access := some (write12 15 .claim true), hold := .held 12 10, applyQueue := [entryFull .raise 6] }
    (GrantActs held (write12 15 .claim true) ∧ (held.lineRec 12).applyPending = true
        ∧ (held.strike 12 none).checkGood 12 = true ∧ (held.strike 12 struck).checkGood 12 = false)
      ∧ ((on stale12).strike 12 none).checkGood 12 = true ∧ ((on stale12).strike 12 struck).checkGood 12 = false
      ∧ (GrantActs (on stale12) (write12 15 .claim false) ∧ ((on stale12).lineRec 12).content = .stale
        ∧ ((on stale12).lineRec 12).applyPending = false)
      ∧ (GrantActs (on { stale12 with content := .suspect }) (write12 15 .claim false)
        ∧ ((on { stale12 with content := .suspect }).lineRec 12).content = .suspect)
      ∧ (GrantActs (on posted12) (write12 15 .claim false) ∧ ((on posted12).lineRec 12).content = .valid
        ∧ ((on posted12).strike 12 struck).checkGood 12 = false)
      ∧ GrantActs (on top) (write12 15 .claim false) ∧ ((on top).strike 12 none).checkGood 12 = true
      ∧ ((on top).lineRec 12).content = .valid ∧ ((on top).lineRec 12).stamp.version.toNat = 281474976710655
      ∧ ((on top).lineRec 12).pending.post = none ∧ (write12 15 .claim false).kind = .write 15 0x01020304 := by
  unfold GrantActs; decide +kernel

theorem test_met_TheLineHoldEndsBreaksAndHoldsBack :
    online.access = none
      ∧ { online with hold := .held 12 10, access := some (write12 15 .apply true) }.hold = .held 12 10
      ∧ { online with hold := .held 12 10, applyQueue := [entryFull .raise 6] }.applyQueue = [entryFull .raise 6]
      ∧ (entryFull .raise 6).line = 12 := by decide +kernel

theorem test_met_ConfigWriteSetsItsWord :
    (PortTakes online ∧ online.locked = true) ∧ PortTakes offline ∧ offline.locked = false := by decide +kernel

/-- START refused WRONG-STATE, NOT-READY and CONFIG-INVALID, the last for a window of 513 lines, and accepted. -/
theorem test_met_StartIsTakenByTheStationState :
    (PortTakes online ∧ Sparse.Wf LineRecord.reset online.lines ∧ online.station ≠ .offline)
      ∧ (PortTakes State.reset ∧ State.reset.station = .offline ∧ State.reset.clearingShown = true)
      ∧ (PortTakes { offline with config := { cfg with windowSize := 513 } }
        ∧ ¬ (InRange { cfg with windowSize := 513 }
          ∧ NoneBeyondWindow { offline with config := { cfg with windowSize := 513 } }))
      ∧ (PortTakes offline ∧ InRange offline.config ∧ NoneBeyondWindow offline)
      ∧ PortTakes { offline with locked := true } := by
  refine ⟨by decide +kernel, by decide +kernel, ⟨by decide +kernel, fun h => ?_⟩, ⟨by decide +kernel, ?_, ?_⟩,
    by decide +kernel⟩
  · exact absurd h.1 (by unfold InRange; decide +kernel)
  · unfold InRange; decide +kernel
  · intro l _
    have h : offline.lineRec l = LineRecord.reset := by simp [State.lineRec, offline, State.reset, Sparse.get]
    rw [h]
    exact ⟨rfl, rfl, fun p hp => by cases hp⟩

theorem test_met_LeaveEntersOffline :
    (PortTakes offline ∧ offline.station.isActive = false)
      ∧ PortTakes flying ∧ flying.station.isActive = true ∧ Sparse.Wf LineRecord.reset flying.lines
      ∧ flying.SlotsAgree :=
  ⟨by decide +kernel, by decide +kernel, by decide +kernel, by decide +kernel, slotsAgree_flying⟩

theorem test_met_DrainIsTakenByTheStationState :
    (PortTakes offline ∧ offline.station.isActive = false)
      ∧ (PortTakes { posted with drainPending := true } ∧ posted.station.isActive = true)
      ∧ (PortTakes online ∧ online.postList = [] ∧ ∀ i, (online.slot i).isFor .update = false)
      ∧ (PortTakes posted ∧ posted.postList ≠ [])
      ∧ PortTakes flying ∧ ∃ i, (flying.slot i).isFor .update = true := by decide +kernel

theorem test_met_WatchUnwatchAndQueryNameALine :
    PortTakes online ∧ online.inWindow (512 : BitVec 16).toNat = false ∧ online.inWindow (511 : BitVec 16).toNat = true := by
  decide +kernel

theorem test_met_IntenableAndTheReadsThatAct :
    PortTakes online ∧ online.notices = []
      ∧ { online with notices := [.superseded 511 (some 31)] }.notices = [.superseded 511 (some 31)]
      ∧ (noticeFields (.superseded 511 (some 31))).line = some 511 ∧ 511 < 65536
      ∧ online.query.line < 65536 := by decide +kernel

theorem test_met_RejectedAccessesCompleteWithLerr :
    PortTakes online ∧ ((0x00FFFFFF : Word) >>> 24).toNat = 0 ∧ ((0x08000000 : Word) >>> 24).toNat = 8
      ∧ 5 ≤ (5 : BitVec 6).toNat ∧ (12 : BitVec 6).toNat ≤ 12 ∧ (14 : BitVec 4) ≠ 15
      ∧ 32781 ≤ (32781 : BitVec 16).toNat := by decide +kernel

theorem test_met_ReceptionBeginsAndBreaksOff :
    online.receives = true ∧ online.resetAsserted = false ∧ online.receiving = true
      ∧ (after .reset online).resetAsserted = true := by decide +kernel

theorem test_met_CarrierLossEntersIsolated :
    (offline.station = .offline ∧ { offline with carrier := true }.carrier = true)
      ∧ flying.carrier = true ∧ flying.station = .online ∧ flying.SlotsAgree :=
  ⟨by decide +kernel, by decide +kernel, by decide +kernel, slotsAgree_flying⟩

/-- A damaged frame, a FULL of 58 bytes, a peer's frame with budget 0; a line at the window's end, a REQUEST ANSWERED, a
PROBE and a kind that is unknown. -/
theorem test_met_FramesThatAreDroppedOrForwardedAlone :
    (online.receives = true ∧ Frame.checkGood [1, 2, 3, 4, 5, 6, 7, 8] = false)
      ∧ ((Frame.seal (0x10 :: List.replicate 55 0)).length = 58
        ∧ Frame.malformed (Frame.seal (0x10 :: List.replicate 55 0)) = true)
      ∧ (Frame.budget (Frame.request 0 5 0 12 (st 5 5)) = 0
        ∧ Frame.origin (Frame.request 0 5 0 12 (st 5 5)) ≠ online.config.stationNumber)
      ∧ (ToActOn online (Frame.request 1 5 0 512 (st 5 5))
        ∧ online.inWindow (Frame.line (Frame.request 1 5 0 512 (st 5 5))) = false)
      ∧ (ToActOn online (home (peerRequest 5) ⟨false, true, none⟩)
        ∧ Frame.answered (home (peerRequest 5) ⟨false, true, none⟩) = true)
      ∧ (ToActOn online peerProbe ∧ Frame.kind peerProbe = .probe)
      ∧ ToActOn online (Frame.seal [0x50, 8, 5, 0, 0, 12])
        ∧ Frame.kind (Frame.seal [0x50, 8, 5, 0, 0, 12]) = .unknown := by
  unfold ToActOn; decide +kernel

theorem test_met_OlderOrDuplicateUpdateIsDiscarded :
    (UpdateFor posted (peerFull 4) .full ∧ (posted.lineRec 12).stamp.newer (st 4 5) = true
        ∧ Frame.stamp (peerFull 4) = st 4 5)
      ∧ (UpdateFor (withRec { rec12 with stamp := st 5 5 }) (peerDelta 5 (st 4 7)) .delta
        ∧ ((withRec { rec12 with stamp := st 5 5 }).lineRec 12).stamp = Frame.stamp (peerDelta 5 (st 4 7)))
      ∧ UpdateFor { withRec { stale12 with applyPending := true } with applyQueue := [entryFull .heal 5] } (peerFull 5)
          .full
        ∧ (entryFull .heal 5).stamp = Frame.stamp (peerFull 5) ∧ (entryFull .heal 5).kind = .full := by
  unfold UpdateFor ToActOn; decide +kernel

/-- A heal with 7 entries queued, one with 8, and a DELTA. -/
theorem test_met_EqualStampOnAnUntrustedLine :
    let meets (n : Nat) (f : List Byte) : Prop :=
      let s := { listed with applyQueue := List.replicate n entryDelta }
      Frame.stamp f = (s.lineRec (Frame.line f)).stamp ∧ (s.lineRec (Frame.line f)).content ≠ .valid
        ∧ ∀ e ∈ s.applyQueue,
          ¬ (e.line = Frame.line f ∧ e.kind = .full ∧ e.stamp = (s.lineRec (Frame.line f)).stamp)
    (UpdateFor { listed with applyQueue := List.replicate 7 entryDelta } (peerFull 5) .full ∧ meets 7 (peerFull 5))
      ∧ (UpdateFor { listed with applyQueue := List.replicate 8 entryDelta } (peerFull 5) .full
        ∧ meets 8 (peerFull 5))
      ∧ UpdateFor listed (peerDelta 5 (st 4 7)) .delta ∧ meets 0 (peerDelta 5 (st 4 7)) := by
  unfold UpdateFor ToActOn; decide +kernel

theorem test_met_NewerUpdateRaisesAndQueues :
    let seven : State := { posted with applyQueue := List.replicate 7 entryDelta }
    (UpdateFor seven (peerFull 6) .full ∧ (Frame.stamp (peerFull 6)).newer (seven.lineRec 12).stamp = true
        ∧ seven.applyQueue.length < 8)
      ∧ UpdateFor seven (peerDelta 6 (st 5 3)) .delta ∧ (seven.lineRec 12).content = .valid
      ∧ Frame.baseStamp (peerDelta 6 (st 5 3)) = (seven.lineRec 12).stamp
      ∧ (Frame.stamp (peerDelta 6 (st 5 3))).newer (seven.lineRec 12).stamp = true := by
  unfold UpdateFor ToActOn; decide +kernel

/-- No entry free, a DELTA on an untrusted line, and a DELTA on another base. -/
theorem test_met_NewerUpdateThatIsMissedTurnsStale :
    let eight : State := { posted with applyQueue := List.replicate 8 entryDelta }
    (UpdateFor eight (peerFull 6) .full ∧ (Frame.stamp (peerFull 6)).newer (eight.lineRec 12).stamp = true
        ∧ 8 ≤ eight.applyQueue.length)
      ∧ (UpdateFor listed (peerDelta 6 (st 5 5)) .delta ∧ (listed.lineRec 12).content ≠ .valid
        ∧ (Frame.stamp (peerDelta 6 (st 5 5))).newer (listed.lineRec 12).stamp = true)
      ∧ UpdateFor posted (peerDelta 6 (st 4 7)) .delta
      ∧ Frame.baseStamp (peerDelta 6 (st 4 7)) ≠ (posted.lineRec 12).stamp
      ∧ (Frame.stamp (peerDelta 6 (st 4 7))).newer (posted.lineRec 12).stamp = true := by
  unfold UpdateFor ToActOn; decide +kernel

/-- Taken with 3 lines waiting, and passed on with 4. -/
theorem test_met_RequestIsTakenOrPassedOn :
    (ToActOn { withRec rec12 with answerQueue := [1, 2, 3] } (peerRequest 4) ∧ Frame.kind (peerRequest 4) = .request
        ∧ Frame.answered (peerRequest 4) = false ∧ online.inWindow (Frame.line (peerRequest 4)) = true
        ∧ (Frame.stamp (peerRequest 4)).newer ((withRec rec12).lineRec 12).stamp = false)
      ∧ ToActOn { withRec rec12 with answerQueue := [1, 2, 3, 4] } (peerRequest 4) := by
  unfold ToActOn; decide +kernel

theorem test_met_LateReturnHasNoEffect :
    (ToStrip online ownUpdate ∧ Frame.kind ownUpdate = .full ∧ ∀ u, ¬ MatchedReturn online ownUpdate .update u)
      ∧ (ToStrip online (Frame.full true 8 3 0 12 (st 5 3) bytes32)
        ∧ Frame.untracked (Frame.full true 8 3 0 12 (st 5 3) bytes32) = true)
      ∧ (ToStrip online ownAsk ∧ Frame.kind ownAsk = .request ∧ ∀ u, ¬ MatchedReturn online ownAsk .repair u)
      ∧ (ToStrip { online with now := 91, probe := ⟨3, false, some ⟨2, some 90⟩, some 1000, 0⟩ } (ownProbe 2 77)
        ∧ Frame.token (ownProbe 2 77) = 77 ∧ Frame.tag (ownProbe 2 77) = 2)
      ∧ ToStrip online (Frame.seal [0x50, 8, 3, 0, 0, 12]) := by
  unfold ToStrip
  refine ⟨⟨by decide +kernel, by decide +kernel, fun u h => ?_⟩, by decide +kernel,
    ⟨by decide +kernel, by decide +kernel, fun u h => ?_⟩, by decide +kernel, by decide +kernel⟩ <;>
  · have := h.1
    rw [no_slot] at this
    cases this

theorem test_met_ReturnThatEndsTheFlight :
    (ToStrip (tracked inflight12 (use12 none (some 100))) ownUpdate ∧ Frame.kind ownUpdate = .full
        ∧ Frame.untracked ownUpdate = false ∧ Frame.missed ownUpdate = false
        ∧ MatchedReturn (tracked inflight12 (use12 none (some 100))) ownUpdate .update (use12 none (some 100))
        ∧ ((tracked inflight12 (use12 none (some 100))).lineRec 12).pending.flight = some ⟨0, false⟩
        ∧ Frame.slot ownUpdate = 0)
      ∧ ToStrip (tracked { inflight12 with pending := .inflight ⟨0, true⟩ } (use12 none (some 100)))
          (home ownUpdate ⟨true, false, none⟩)
      ∧ MatchedReturn (tracked { inflight12 with pending := .inflight ⟨0, true⟩ } (use12 none (some 100)))
          (home ownUpdate ⟨true, false, none⟩) .update (use12 none (some 100)) := by
  unfold ToStrip MatchedReturn; decide +kernel

/-- A MISSED return below the retry limit, at it, on an untrusted line, and with a post waiting. -/
theorem test_met_MissedReturnMendsOrGivesUp :
    let f := home ownUpdate ⟨true, false, none⟩
    let below := { use12 none (some 100) with attempts := 1 }
    let atLimit := { use12 none (some 100) with attempts := 2 }
    (ToStrip (tracked inflight12 below) f ∧ MatchedReturn (tracked inflight12 below) f .update below
        ∧ Frame.missed f = true ∧ Frame.untracked f = false ∧ Frame.kind f = .full
        ∧ below.attempts < (tracked inflight12 below).config.retryLimit.toNat)
      ∧ (ToStrip (tracked inflight12 atLimit) f ∧ MatchedReturn (tracked inflight12 atLimit) f .update atLimit)
      ∧ (ToStrip (tracked { inflight12 with content := .suspect } below) f
        ∧ MatchedReturn (tracked { inflight12 with content := .suspect } below) f .update below)
      ∧ ToStrip (tracked waiting12 below) f ∧ MatchedReturn (tracked waiting12 below) f .update below
      ∧ ((tracked waiting12 below).lineRec 12).pending.flight = some ⟨0, false⟩ := by
  unfold ToStrip MatchedReturn; decide +kernel

theorem test_met_UnansweredRequestRetriesOrGivesUp :
    let s := listed.setSlot 0 ⟨5, some (ask12 1 none (some 100))⟩
    let t := listed.setSlot 0 ⟨5, some (ask12 2 none (some 100))⟩
    (ToStrip s ownAsk ∧ MatchedReturn s ownAsk .repair (ask12 1 none (some 100)) ∧ Frame.answered ownAsk = false
        ∧ Frame.kind ownAsk = .request)
      ∧ (ToStrip t (home ownAsk ⟨false, true, none⟩)
        ∧ MatchedReturn t (home ownAsk ⟨false, true, none⟩) .repair (ask12 2 none (some 100))
        ∧ Frame.answered (home ownAsk ⟨false, true, none⟩) = true)
      ∧ (t.slot 0).use = some (ask12 2 none (some 100)) ∧ (ask12 2 none (some 100)).purpose = .repair
      ∧ (ask12 2 none (some 100)).deadline = some 100 ∧ t.config.retryLimit.toNat = 2 := by
  unfold ToStrip MatchedReturn; decide +kernel

/-- In time on the tick of the deadline itself, in ONLINE and in ISOLATED. -/
theorem test_met_ProbeReturnInTime :
    let s := { online with now := 90, probe := ⟨3, false, some ⟨2, some 90⟩, some 1000, 0⟩ }
    (ToStrip s (ownProbe 2 77) ∧ Frame.kind (ownProbe 2 77) = .probe
        ∧ Frame.token (ownProbe 2 77) = s.config.instanceToken ∧ s.probe.outstanding = some ⟨2, some 90⟩
        ∧ Frame.tag (ownProbe 2 77) = 2 ∧ s.now ≤ 90)
      ∧ ToStrip { s with station := .isolated } (ownProbe 2 77) := by
  unfold ToStrip; decide +kernel

theorem test_met_IdentityClashEntersFault :
    ToStrip flying (ownProbe 2 78) ∧ Frame.kind (ownProbe 2 78) = .probe
      ∧ Frame.token (ownProbe 2 78) ≠ flying.config.instanceToken ∧ Sparse.Wf LineRecord.reset flying.lines
      ∧ flying.SlotsAgree :=
  ⟨by unfold ToStrip; decide +kernel, by decide +kernel, by decide +kernel, by decide +kernel, slotsAgree_flying⟩

theorem test_met_OutputArbiterAndSwitches :
    (online.linkMode = .active ∧ online.switchAsked = false ∧ online.sending ≠ .own)
      ∧ (let s := { online with sending := .forwarded 3, fifo := [peerFull 6] }
        s.linkMode = .active ∧ s.sending = .forwarded 3 ∧ s.fifo = [peerFull 6])
      ∧ ({ online with sending := .own, place := some ownAsk }.sending = .own ∧ online.sending = .idle)
      ∧ ((after (.start 0) offline).linkMode ≠ .active ∧ (after (.start 0) offline).switchAsked = true)
      ∧ (let s := after (.leave 0) { online with sending := .forwarded 3, fifo := [peerFull 6] }
        s.linkMode = .active ∧ s.switchAsked = true ∧ s.sending ≠ .own)
      ∧ (after (.leave 0) online).linkMode = .idleUntilStart := by decide +kernel

theorem test_met_InsertionCompleteReports :
    let s := { flying with sending := .own, place := some ownUpdate }
    let p := { online with
      sending := .own, place := some (ownProbe 2 77), probe := ⟨3, false, some ⟨2, none⟩, some 1000, 0⟩ }
    (s.sending = .own ∧ s.place = some ownUpdate ∧ Frame.kind ownUpdate = .full ∧ Frame.untracked ownUpdate = false
        ∧ (s.slot (Frame.slot ownUpdate)).use = some (use12 none none)
        ∧ Frame.generation ownUpdate = (s.slot (Frame.slot ownUpdate)).generation - 1)
      ∧ (p.sending = .own ∧ p.place = some (ownProbe 2 77) ∧ Frame.kind (ownProbe 2 77) = .probe
        ∧ p.probe.outstanding = some ⟨2, none⟩ ∧ p.station.isActive = true ∧ Frame.tag (ownProbe 2 77) = 2)
      ∧ ({ online with sending := .own, place := some ownUpdate }.slot 0).use = none
      ∧ { online with sending := .own, place := some ownUpdate }.probe.outstanding = none := by decide +kernel

theorem test_met_ApplyFullReplacesTheLine :
    let s := { withRec { stale12 with applyPending := true } with
      repairList := [⟨12, 0⟩], applyQueue := [entryFull .heal 5] }
    s.grantsApply = true ∧ s.applyQueue = [entryFull .heal 5]
      ∧ (entryFull .heal 5).kind = .full ∧ (entryFull .heal 5).data.length = 32 := by decide +kernel

theorem test_met_ApplyDeltaMergesOrFails :
    let s := { withRec { rec12 with stamp := st 6 5, applyPending := true } with applyQueue := [entryDelta] }
    let t := { withRec { stale12 with applyPending := true } with applyQueue := [entryDelta] }
    (s.grantsApply = true ∧ entryDelta.kind = .delta ∧ s.checkGood 12 = true
        ∧ entryDelta.data.length = popcount entryDelta.mask ∧ (s.strike 12 struck).checkGood 12 = false)
      ∧ t.grantsApply = true ∧ (t.lineRec 12).content ≠ .valid := by decide +kernel

theorem test_met_ProbeIsBuiltFirst :
    let due (o : Option OutstandingProbe) (losses : Nat) (s : State) : State :=
      { s with probe := ⟨3, true, o, some 1000, losses⟩ }
    ((due none 0 online).place = none ∧ (due none 0 online).build = none ∧ (due none 0 online).probe.due = true
        ∧ (due none 0 online).station.isActive = true)
      ∧ ((due (some ⟨2, some 90⟩) 1 online).probe.losses = 1)
      ∧ (due (some ⟨2, some 90⟩) 2 flying).station = .online ∧ (due (some ⟨2, some 90⟩) 2 flying).probe.losses = 2
      ∧ (due (some ⟨2, some 90⟩) 2 flying).place = none ∧ (due (some ⟨2, some 90⟩) 2 flying).SlotsAgree :=
  ⟨by decide +kernel, by decide +kernel, by decide +kernel, by decide +kernel, by decide +kernel, slotsAgree_flying⟩

/-- The only slot in use is slot 0, with a transmission due. -/
theorem firstDue_tracked (r : LineRecord) (u : SlotUse) (d : Due) (h : u.due = some d) :
    FirstDue (tracked r u) 0 u d := by
  have slots : (tracked r u).slots = online.slots.set 0 ⟨5, some u⟩ := rfl
  refine ⟨by simp [State.slot, slots], h, fun j v e hj hv _ => ?_⟩
  have hv : (online.slot j).use = some v := by
    rw [← hv]
    have : (0 : Nat) ≠ j.val := fun c => hj (Fin.ext c.symm)
    simp [State.slot, slots, this]
  rw [no_slot] at hv
  cases hv

theorem test_met_FramerChoosesByPrecedence :
    ({ online with station := .isolated }.station ≠ .online ∧ { online with station := .isolated }.probe.due = false)
      ∧ ({ online with place := some ownAsk }.place ≠ none ∧ { online with build := some .answer }.build ≠ none)
      ∧ (ChoosesPastProbe (tracked inflight12 (use12 (some ⟨.mend, 0⟩) none))
        ∧ FirstDue (tracked inflight12 (use12 (some ⟨.mend, 0⟩) none)) 0 (use12 (some ⟨.mend, 0⟩) none) ⟨.mend, 0⟩)
      ∧ (ChoosesPastProbe (tracked waiting12 (use12 (some ⟨.replacement, 0⟩) none))
        ∧ FirstDue (tracked waiting12 (use12 (some ⟨.replacement, 0⟩) none)) 0 (use12 (some ⟨.replacement, 0⟩) none)
          ⟨.replacement, 0⟩)
      ∧ (ChoosesPastProbe { online with answerQueue := [12] } ∧ NoneDue { online with answerQueue := [12] })
      ∧ (ChoosesPastProbe posted ∧ NoneDue posted ∧ posted.answerQueue = [] ∧ NoRequestReady posted
        ∧ PostReady posted 12)
      ∧ ChoosesPastProbe online ∧ NoneDue online ∧ NoRequestReady online ∧ NoPostReady online
        ∧ online.sweep.due = false := by
  unfold ChoosesPastProbe
  refine ⟨by decide +kernel, by decide +kernel, ⟨by decide +kernel, firstDue_tracked _ _ _ rfl⟩,
    ⟨by decide +kernel, firstDue_tracked _ _ _ rfl⟩, ⟨by decide +kernel, noneDue_online⟩,
    ⟨by decide +kernel, noneDue_online, rfl, .inl (fun _ h => by cases h), ⟨[], [], rfl, ⟨post12, by decide +kernel⟩,
      (fun _ h => by cases h)⟩, by decide +kernel, 0, by decide +kernel⟩, by decide +kernel, noneDue_online,
    .inl (fun _ h => by cases h), .inl (fun _ h => by cases h), by decide +kernel⟩

/-- A STALE line whose writer is absent from the map, and one listed a return limit ago. -/
theorem test_met_RequestsAreBuiltInTheChoice :
    (ChoosesPastProbe listed ∧ NoneDue listed ∧ listed.answerQueue = [] ∧ RequestReady listed ⟨12, 0⟩ 0)
      ∧ MayAsk { listed with membership := 0x20, now := 100 } ⟨12, 0⟩
      ∧ ChoosesPastProbe (tracked stale12 (ask12 1 (some ⟨.retry, 0⟩) none))
        ∧ FirstDue (tracked stale12 (ask12 1 (some ⟨.retry, 0⟩) none)) 0 (ask12 1 (some ⟨.retry, 0⟩) none)
          ⟨.retry, 0⟩ := by
  unfold ChoosesPastProbe
  have stale : listed.lineRec 12 = stale12 := by decide +kernel
  refine ⟨⟨by decide +kernel, noneDue_online, rfl, ⟨[], [], rfl, ⟨⟨by decide +kernel, .inr ⟨by decide +kernel, .inr ?_⟩⟩,
      fun i => ?_⟩, (fun _ h => by cases h)⟩, by decide +kernel, by decide +kernel⟩,
    ⟨by decide +kernel, .inr ⟨by decide +kernel, .inl (by decide +kernel)⟩⟩, by decide +kernel,
    firstDue_tracked _ _ _ rfl⟩
  · intro w hw
    have hw : stale12.stamp.writer = some w := by rw [← hw, ← stale]
    cases hw
    decide +kernel
  · have h : (listed.slot i).use = none := no_slot i
    simp [Slot.names, h]

theorem test_met_PostIsFramedOnASlot :
    let s := { posted with build := some (.post 12) }
    let t := { withRec waiting12 with build := some (.post 12) }
    (FetchGranted s (.post 12) ∧ s.checkGood 12 = true ∧ (s.lineRec 12).pending = .posted post12 ∧ LowestFree s 0
        ∧ s.updateSlots < 14 ∧ (s.strike 12 struck).checkGood 12 = false)
      ∧ FetchGranted t (.post 12) ∧ t.checkGood 12 = true ∧ ∀ p, (t.lineRec 12).pending ≠ .posted p := by
  unfold LowestFree
  refine ⟨by decide +kernel, by decide +kernel, by decide +kernel, fun p h => ?_⟩
  have : waiting12.pending = .posted p := by rw [← h]; decide +kernel
  cases this

theorem test_met_DueTransmissionsOfFitLines :
    let u := use12 (some ⟨.mend, 0⟩) none
    let s := { tracked inflight12 u with build := some (.mendResend 0) }
    let v := use12 (some ⟨.replacement, 0⟩) none
    let t := { tracked waiting12 v with build := some (.replacement 0), postList := [12] }
    ((s.slot 0).use = some u ∧ u.purpose = .update ∧ FetchGranted s (.mendResend 0) ∧ s.checkGood 12 = true
        ∧ (s.lineRec 12).pending = .inflight ⟨0, false⟩ ∧ (s.lineRec 12).content = .valid)
      ∧ (t.slot 0).use = some v ∧ FetchGranted t (.replacement 0) ∧ t.checkGood 12 = true
      ∧ (t.lineRec 12).pending = .inflightPosted ⟨0, false⟩ ⟨st 5 3, 1, false⟩ ∧ (t.lineRec 12).content = .valid := by
  decide +kernel

theorem test_met_UnfitTransmissionFreesItsSlot :
    let u := use12 (some ⟨.mend, 0⟩) none
    let s := { tracked waiting12 u with build := some (.mendResend 0), postList := [12] }
    let t := { tracked inflight12 u with build := some (.replacement 0) }
    ((s.slot 0).use = some u ∧ FetchGranted s (.mendResend 0) ∧ (s.lineRec 12).pending ≠ .inflight ⟨0, false⟩
        ∧ (s.strike 12 struck).checkGood 12 = false)
      ∧ (t.slot 0).use = some u ∧ FetchGranted t (.replacement 0)
      ∧ ¬ ∃ p, (t.lineRec 12).pending = .inflightPosted ⟨0, false⟩ p := by
  refine ⟨by decide +kernel, by decide +kernel, by decide +kernel, fun ⟨p, h⟩ => ?_⟩
  have : inflight12.pending = .inflightPosted ⟨0, false⟩ p := by rw [← h]; decide +kernel
  cases this

theorem test_met_AnswerIsBuiltOrDropped :
    let s := { withRec rec12 with build := some .answer, answerQueue := [12] }
    let t := { posted with build := some .answer, answerQueue := [12] }
    (FetchGranted s .answer ∧ s.answerQueue = [12] ∧ s.checkGood 12 = true ∧ (s.lineRec 12).content = .valid
        ∧ (s.lineRec 12).applyPending = false ∧ (s.lineRec 12).pending.post = none
        ∧ (s.strike 12 struck).checkGood 12 = false)
      ∧ FetchGranted t .answer ∧ (t.lineRec 12).pending.post ≠ none := by decide +kernel

/-- The refresh, listing (at the window's last line, with 31 listed) and no-action cases, in the choice and in the fetch. -/
theorem test_met_SweepStepRefreshesListsOrPasses :
    let own := { withRec { rec12 with stamp := st 4 3 } with sweep := ⟨12, true, false, some 50⟩ }
    let last := { online.setRec 511 { stale12 with listed := false } with
      sweep := ⟨511, true, false, some 50⟩, repairList := List.replicate 31 ⟨12, 0⟩ }
    (ChoosesPastProbe own ∧ NoneDue own ∧ NoRequestReady own ∧ NoPostReady own ∧ RefreshCase own own.sweep.pointer)
      ∧ ListingCase last last.sweep.pointer
      ∧ (¬ RefreshCase (withRec rec12) 12 ∧ ¬ ListingCase (withRec rec12) 12)
      ∧ FetchGranted { own with build := some .sweep } .sweep ∧ own.checkGood own.sweep.pointer = true
      ∧ (own.strike 12 struck).checkGood 12 = false := by
  unfold ChoosesPastProbe
  refine ⟨⟨by decide +kernel, noneDue_online, .inl (fun _ h => by cases h), .inl (fun _ h => by cases h), by decide +kernel,
      by decide +kernel, by decide +kernel, by decide +kernel⟩, ?_, ⟨fun h => ?_, fun h => ?_⟩,
    by decide +kernel, by decide +kernel, by decide +kernel⟩
  · unfold ListingCase; decide +kernel
  · exact absurd h.2.2.2 (by decide +kernel)
  · exact h.1 (by decide +kernel)

/-- Below the retry limit, at it, with a post waiting, and superseded. -/
theorem test_met_UpdateDeadlineResendsReplacesOrGivesUp :
    let below := { use12 none (some 100) with attempts := 1 }
    let atLimit := { use12 none (some 100) with attempts := 2 }
    let superseded : LineRecord := { waiting12 with pending := .inflightPosted ⟨0, true⟩ ⟨st 5 3, 1, false⟩ }
    (((tracked inflight12 below).slot 0).use = some below ∧ below.purpose = .update ∧ below.deadline = some 100
        ∧ ((tracked inflight12 below).lineRec 12).pending.flight = some ⟨0, false⟩
        ∧ below.attempts < (tracked inflight12 below).config.retryLimit.toNat)
      ∧ (((tracked inflight12 atLimit).slot 0).use = some atLimit ∧ atLimit.attempts = 2)
      ∧ ((tracked waiting12 below).lineRec 12).pending.flight = some ⟨0, false⟩
      ∧ ((tracked superseded below).lineRec 12).pending.flight = some ⟨0, true⟩ := by decide +kernel

theorem test_met_ProbeAndSweepTimers :
    let s (losses : Nat) (t : State) : State := { t with probe := ⟨3, false, some ⟨2, some 90⟩, some 1000, losses⟩ }
    ((s 1 online).probe.outstanding = some ⟨2, some 90⟩ ∧ ¬ ((s 1 online).station = .online ∧ 2 ≤ (s 1 online).probe.losses))
      ∧ ((s 2 flying).station = .online ∧ 2 ≤ (s 2 flying).probe.losses ∧ (s 2 flying).SlotsAgree)
      ∧ online.probe.timer = some 1000 ∧ online.sweep.timer = some 50 :=
  ⟨by decide +kernel, ⟨by decide +kernel, by decide +kernel, slotsAgree_flying⟩, by decide +kernel, by decide +kernel⟩

theorem test_met_NoticeQueueEndsInOverflow :
    { online with notices := List.replicate 62 .ringUp }.notices.length < 63
      ∧ { online with notices := List.replicate 63 .ringUp }.notices.length = 63
      ∧ 64 ≤ { online with notices := List.replicate 64 .ringUp }.notices.length := by decide +kernel

theorem test_met_StampOrderIsTotal : st 6 2 ≠ st 6 5 ∧ (Stamp.mk 0 (some 0)) ≠ ⟨0, none⟩
    ∧ (st 7 3).newer (st 6 31) = true ∧ (st 6 31).newer (st 6 5) = true := by decide

theorem test_met_OwnFramesReadBack :
    65535 < 65536 ∧ bytes32.length = 32 ∧ Mask.all ≠ 0 ∧ bytes32.length = popcount Mask.all
      ∧ Frame.tag ownUpdate = Frame.slotTag 0 4 := by decide +kernel

theorem test_met_ForwardedCopyChangesOnlyItsMarks :
    Frame.checkGood (peerFull 6) = true ∧ Frame.checkGood peerProbe = true ∧ peerProbe.length = 14 := by decide +kernel

/-- The invariants hold where a line is in flight, not only after RESET. -/
theorem test_met_the_capacities : flying.WithinCapacity ∧ flying.AttemptsBounded ∧ flying.EntriesFit := by
  refine ⟨?_, ⟨fun i u h => ?_, by decide +kernel, by decide +kernel⟩, (fun _ h => by cases h)⟩
  · unfold State.WithinCapacity; decide +kernel
  · rw [flying_slot] at h
    split at h
    · cases h; decide
    · cases h

theorem test_met_a_step_of_the_invariants :
    ∃ t, step { flying with pending := [.carrierLost] } = .next t ∧ t.station = .isolated :=
  ⟨after .carrierLost { flying with pending := [] }, by rfl, by decide +kernel⟩

end Sys2Proof.Tests
end

/-! # The Line Directory: its order of stamps, its reset, its clearing pass, its reads, and what every step keeps of it

The statements of the family 01_the_line_directory. Two invariants carry it: `State.Contained` (canonical form and ranges) and
`State.Consistent` (each record in step with the lists). A command that changes no line is dealt with once
(`exec_leavesHoldings`); for each other command a rule `exec…_meets` names the states it can answer. -/

namespace Sys2Proof.Machine

/-! ## The order of stamps -/

/-- The order of stamps is lexicographic: by version, then by the rank of the writer (R5). -/
theorem Stamp.newer_iff (a b : Stamp) :
    a.newer b = true ↔
      b.version.toNat < a.version.toNat
        ∨ (a.version.toNat = b.version.toNat ∧ writerRank b.writer < writerRank a.writer) := by
  simp [Stamp.newer, BitVec.toNat_inj]

/-- No two writers share a rank. -/
theorem writerRank_inj {x y : Option Byte} : writerRank x = writerRank y ↔ x = y := by
  cases x <;> cases y <;> simp [writerRank, BitVec.toNat_inj]

/-- Stamps are equal when their versions and the ranks of their writers are. -/
theorem Stamp.ext_rank {a b : Stamp} (hv : a.version.toNat = b.version.toNat)
    (hw : writerRank a.writer = writerRank b.writer) : a = b := by
  have hv := BitVec.eq_of_toNat_eq hv
  have hw := writerRank_inj.1 hw
  cases a; cases b; simp_all

theorem Stamp.newer_irrefl (a : Stamp) : a.newer a = false := by
  simp [Stamp.newer]

theorem Stamp.newer_asymm {a b : Stamp} (h : a.newer b = true) : b.newer a = false := by
  rw [← Bool.not_eq_true, Stamp.newer_iff]
  rw [Stamp.newer_iff] at h
  omega

theorem Stamp.newer_trans {a b c : Stamp} (hab : a.newer b = true) (hbc : b.newer c = true) : a.newer c = true := by
  rw [Stamp.newer_iff] at *
  omega

theorem Stamp.newer_total {a b : Stamp} (h : a ≠ b) : a.newer b = true ∨ b.newer a = true := by
  rw [Stamp.newer_iff, Stamp.newer_iff]
  by_cases hv : a.version.toNat = b.version.toNat
  · have hw : writerRank a.writer ≠ writerRank b.writer := fun hw => h (Stamp.ext_rank hv hw)
    omega
  · omega

/-- No stamp is older than the blank one (R4, R5). -/
theorem Stamp.not_blank_newer (a : Stamp) : Stamp.blank.newer a = false := by
  rw [← Bool.not_eq_true, Stamp.newer_iff]
  simp [Stamp.blank, writerRank]

theorem Stamp.atLeast_iff (a b : Stamp) : a.atLeast b = true ↔ a = b ∨ a.newer b = true := by
  simp [Stamp.atLeast]

theorem Stamp.atLeast_refl (a : Stamp) : a.atLeast a = true := (Stamp.atLeast_iff a a).2 (.inl rfl)

/-- What is newer than a stamp is newer than everything at or below it. -/
theorem Stamp.newer_of_atLeast {a b c : Stamp} (hab : a.newer b = true) (hbc : b.atLeast c = true) :
    a.newer c = true := by
  obtain rfl | hbc := (Stamp.atLeast_iff b c).1 hbc
  · exact hab
  · exact Stamp.newer_trans hab hbc

/-- Settles O51: each clause is one of the laws of the order above. -/
theorem stampOrderIsTotal : Obligations.StampOrderIsTotal := by
  unfold Obligations.StampOrderIsTotal
  refine ⟨fun a b => ?_, fun a b h => ?_, Stamp.newer_irrefl, fun a h => ?_, fun _ _ _ => Stamp.newer_trans,
    Stamp.atLeast_iff⟩
  · rw [Stamp.newer_iff, BitVec.toNat_inj]
    cases a.writer <;> cases b.writer <;> simp [writerRank]
  · obtain h | h := Stamp.newer_total h
    · exact .inl ⟨h, Stamp.newer_asymm h⟩
    · exact .inr ⟨h, Stamp.newer_asymm h⟩
  · obtain h | h := Stamp.newer_total h
    · exact h
    · exact absurd h (by rw [show Stamp.mk 0 none = Stamp.blank from rfl, Stamp.not_blank_newer]; decide)

/-! ## RESET -/

theorem State.slot_reset (i : SlotNo) : State.reset.slot i = ⟨0, none⟩ := by
  simp [State.slot, State.reset]

/-- Settles O3: the reset state is written down field by field, and a line or slot of it is read through no entry. -/
theorem resetStateHoldsTheStatedValues : Obligations.ResetStateHoldsTheStatedValues := by
  unfold Obligations.ResetStateHoldsTheStatedValues
  exact ⟨rfl, rfl, fun _ => rfl, rfl, rfl, rfl, rfl, rfl, rfl, State.slot_reset, rfl, rfl, rfl, rfl, rfl, rfl, rfl, rfl,
    rfl, rfl, rfl, rfl, rfl, rfl, rfl, rfl, rfl⟩

/-- Settles O4. -/
theorem resetAndItsRelease : Obligations.ResetAndItsRelease := by
  unfold Obligations.ResetAndItsRelease
  refine ⟨fun s => rfl, fun s h => ⟨{ s with phase := .clearing 0 }, ?_, rfl, rfl⟩⟩
  have hr : s.resetAsserted = true := by simp [State.resetAsserted, h]
  simp [exec, execResetRelease, State.releaseReset, hr]

end Sys2Proof.Machine

namespace Sys2Proof.Machine

/-! ## The course of an access -/

theorem State.refusesLhold_iff (s : State) (lhold : Bool) :
    s.refusesLhold lhold = true ↔ lhold = true ∧ s.holdIsBroken = true ∧ s.config.holdLimit ≠ 0 := by
  simp [State.refusesLhold, and_assoc]

theorem State.keepsWaiting_iff (s : State) (line : Nat) :
    s.keepsWaiting line = true ↔ (s.lineRec line).applyPending = true ∧ s.isHeld line = false := by
  simp [State.keepsWaiting]

/-- Steps 3 to 5 of a read (R174). -/
theorem State.admitAccess_read (s : State) (a : Access) (hk : a.kind = .read) :
    s.admitAccess a =
      if s.refusesLhold a.lhold = true then s.fail .read
      else { s with
        access := some { a with phase := if s.keepsWaiting (lineOf a.la) = true then .apply else .claim }
        completion := none } := by
  unfold State.admitAccess
  simp only [hk, bne_self_eq_false, Bool.false_and, Bool.false_eq_true, if_false]
  (repeat' split) <;> rfl

/-- Steps 3 to 5 of a write (R49, R50). -/
theorem State.admitAccess_write (s : State) (a : Access) (be : BitVec 4) (ld : Word) (hk : a.kind = .write be ld) :
    s.admitAccess a =
      if s.refusesLhold a.lhold = true then s.refuseWrite (lineOf a.la) .holdBroken
      else if (s.lineRec (lineOf a.la)).applyPending = true ∧ s.isHeld (lineOf a.la) = true then
        s.refuseWrite (lineOf a.la) .overtaken
      else { s with
        access := some { a with phase := if s.keepsWaiting (lineOf a.la) = true then .apply else .claim }
        completion := none } := by
  have hne : (AccessKind.write be ld != .read) = true := rfl
  unfold State.admitAccess
  simp only [hk, hne, Bool.true_and, Bool.and_eq_true, and_comm (a := s.isHeld _ = true)]
  (repeat' split) <;> rfl

/-- Where an access comes to stand that is taken while CLEARING is not shown (R49, R174). -/
theorem State.takeAccess_takenBySteps (s : State) (a : Access) (hc : s.clearingShown = false) :
    TakenBySteps s (s.takeAccess a) a := by
  have hold : (s.takeAccess a).hold = s.hold := by rw [State.takeAccess_frame]
  have hbroken : (s.takeAccess a).holdIsBroken = s.holdIsBroken := by simp only [State.holdIsBroken, hold]
  have hheld : ∀ l, (s.takeAccess a).isHeld l = s.isHeld l := fun l => by simp only [State.isHeld, hold]
  unfold TakenBySteps
  simp only [hbroken, hheld, ← State.refusesLhold_iff, ← State.keepsWaiting_iff]
  cases hw : s.inWindow (lineOf a.la) with
  | false =>
    rw [State.takeAccess_of_beyond s a hc hw]
    cases a.kind <;> exact ⟨rfl, rfl, rfl⟩
  | true =>
    cases hk : a.kind with
    | read =>
      rw [State.takeAccess_of_admitted s a hc hw (by simp [hk]), State.admitAccess_read s a hk]
      simp only [Bool.true_eq_false, if_false]
      (repeat' split) <;> exact ⟨rfl, rfl, rfl⟩
    | write be ld =>
      simp only [Bool.true_eq_false, if_false]
      by_cases hbe : be = 0
      · rw [State.takeAccess_of_noByte s a ld hc hw (by rw [hk, hbe]), if_pos hbe]
        exact ⟨rfl, rfl, rfl⟩
      · rw [State.takeAccess_of_admitted s a hc hw (by simpa [hk] using hbe), State.admitAccess_write s a be ld hk,
          if_neg hbe]
        simp only [State.keepsWaiting_iff]
        by_cases hr : s.refusesLhold a.lhold = true
        · rw [if_pos hr, if_pos hr]
          exact ⟨rfl, rfl, rfl⟩
        · rw [if_neg hr, if_neg hr]
          cases (s.lineRec (lineOf a.la)).applyPending <;> cases s.isHeld (lineOf a.la) <;> exact ⟨rfl, rfl, rfl⟩

/-! ## The clearing pass -/

/-- The phase after the claim of line `n` (R14). -/
def phaseAfter (n : Nat) : ResetPhase := if n < 4095 then .clearing (n + 1) else .ended

/-- What a claim of the pass leaves, but for a waiting access: the phase has moved on and the line holds 32 zero bytes
with their code (R14). -/
def State.zeroed (s : State) (n : Nat) : State :=
  ({ s with phase := phaseAfter n }).writeLine n (List.replicate 32 0)

theorem State.writeLine_phase (s : State) (line : Nat) (bytes : List Byte) (p : ResetPhase) :
    ({ s with phase := p } : State).writeLine line bytes = { s.writeLine line bytes with phase := p } := by
  simp only [State.writeLine, State.writeCells]

/-- A claim of the pass changes bytes, codes and phase only. -/
theorem State.zeroed_frame (s : State) (n : Nat) :
    s.zeroed n = { s with mem := (s.zeroed n).mem, codes := (s.zeroed n).codes, phase := (s.zeroed n).phase } := by
  simp only [State.zeroed, State.writeLine, State.writeCells]

/-- After line 4095 an access that waited is taken up (R15). -/
theorem State.clearLine_of_clearing (s : State) (n : Nat) (h : s.phase = .clearing n) :
    s.clearLine = if n < 4095 then s.zeroed n else (s.zeroed n).resumeCleared := by
  simp only [State.clearLine, h, State.zeroed, State.writeLine_phase, phaseAfter]
  (repeat' split) <;> rfl

/-- After the claim of line `n` a line is undefined exactly when it was before and is not `n`. -/
theorem State.uncleared_phaseAfter (s : State) {n l : Nat} (h : s.phase = .clearing n) (hl : l < 4096) :
    ({ s with phase := phaseAfter n } : State).uncleared l = (s.uncleared l && l != n) := by
  unfold phaseAfter
  split <;> (rw [Bool.eq_iff_iff]; simp [State.uncleared, h]; omega)

theorem State.zeroed_lineBytes_same (s : State) {n : Nat} (h : s.phase = .clearing n) (hn : n < 4096) :
    (s.zeroed n).lineBytes n = List.replicate 32 0 :=
  State.lineBytes_writeCells_same _ n _ _ (by simp [State.uncleared_phaseAfter s h hn]) (by simp)

theorem State.zeroed_checkGood_same (s : State) {n : Nat} (h : s.phase = .clearing n) (hn : n < 4096) :
    (s.zeroed n).checkGood n = true :=
  State.checkGood_writeLine _ n _ (by simp [State.uncleared_phaseAfter s h hn]) (by simp)

/-- No byte of another line changes, undefined or not. -/
theorem State.zeroed_byteAt_other (s : State) {n a : Nat} (h : s.phase = .clearing n) (ha : a < 131072)
    (hne : a / 32 ≠ n) : (s.zeroed n).byteAt a = s.byteAt a := by
  have hu : ({ s with phase := phaseAfter n } : State).uncleared (a / 32) = s.uncleared (a / 32) := by
    simp [State.uncleared_phaseAfter s h (show a / 32 < 4096 by omega), hne]
  rw [State.zeroed, State.writeLine, State.byteAt_writeCells_outside _ _ _ _ (by simp) hne]
  simp only [State.byteAt, hu]

/-- Settles O5: the zeroed line, and after the last one a waiting access taken up by the steps of R49 and R174. -/
theorem clearingClaimZeroesItsLine : Obligations.ClearingClaimZeroesItsLine := by
  unfold Obligations.ClearingClaimZeroesItsLine
  intro s n h hn
  have hbytes := s.zeroed_lineBytes_same h hn
  have hgood := s.zeroed_checkGood_same h hn
  have hother := fun a ha hne => s.zeroed_byteAt_other (a := a) h ha hne
  have hrec : ∀ l, (s.zeroed n).lineRec l = s.lineRec l := fun _ => rfl
  have hphase : (s.zeroed n).phase = phaseAfter n := rfl
  have hexec : exec .clearingPassClaim s = .next s.clearLine := rfl
  rw [hexec, s.clearLine_of_clearing n h]
  by_cases hlt : n < 4095
  · rw [if_pos hlt]
    exact ⟨s.zeroed n, rfl, hphase, hbytes, hgood, hother, hrec, fun _ => s.zeroed_frame n, fun heq => by omega⟩
  · rw [if_neg hlt]
    refine ⟨_, rfl, ?_, ?_, ?_, ?_, ?_, fun hl => absurd hl hlt, fun _ => ⟨?_, ?_, ?_⟩⟩
    · rw [State.resumeCleared_phase, hphase]; rfl
    · rw [State.resumeCleared_lineBytes, hbytes]
    · rw [State.resumeCleared_checkGood, hgood]
    · intro a ha hne; rw [State.resumeCleared_byteAt, hother a ha hne]
    · intro l; rw [State.resumeCleared_lineRec, hrec l]
    · rw [State.resumeCleared_frame, s.zeroed_frame n]
    · intro a ha hp
      have hshown : (s.zeroed n).clearingShown = false := by
        simp [State.clearingShown, hphase, phaseAfter, hlt]
      rw [State.resumeCleared_of_waiting (s.zeroed n) a ha hp]
      exact (s.zeroed n).takeAccess_takenBySteps a hshown
    · intro hnot
      rw [State.resumeCleared_of_not_waiting (s.zeroed n) hnot]
      exact ⟨rfl, rfl, rfl⟩

/-! ## The granted read -/

/-- The hold binds at the grant, and nothing else changes (R180). -/
theorem State.bindHold_eq (s : State) (a : Access) : s.bindHold a = { s with hold := holdAtGrant s a } := by
  unfold State.bindHold holdAtGrant
  simp only [Bool.and_eq_true, beq_iff_eq, bne_iff_ne, and_assoc]
  (repeat' split) <;> rfl

/-- A granted access whose line no apply keeps waiting is not sent back to the wait (R49, R174). -/
theorem GrantActs.not_waiting {s : State} {a : Access} (h : GrantActs s a) : s.keepsWaiting (lineOf a.la) = false := by
  obtain ⟨-, -, h⟩ := h
  rw [← Bool.not_eq_true, State.keepsWaiting_iff]
  rintro ⟨hp, hh⟩
  simp [hp, hh] at h

/-- A granted read that acts verifies the struck line and answers by its record (R174). -/
theorem execReadClaimGranted_of_acts {s : State} {a : Access} (u : Option Upset) (h : GrantActs s a)
    (hk : a.kind = .read) :
    execReadClaimGranted u s = .next (((s.strike (lineOf a.la) u).bindHold a).readWord a.la) := by
  have hw := h.not_waiting
  obtain ⟨ha, hg, -⟩ := h
  simp [execReadClaimGranted, ha, hg, hk, hw]

theorem wordOf_lt (la : BitVec 15) : wordOf la < 8 := Nat.mod_lt _ (by decide)

/-- Position `p` of a line's bytes is the byte at that address. -/
theorem State.lineBytes_getD (s : State) (line : Nat) {p : Nat} (hp : p < 32) :
    (s.lineBytes line).getD p 0 = s.byteAt (32 * line + p) := by
  simp [State.lineBytes, List.getD_eq_getElem?_getD, hp]

/-- Byte `k` of a four-byte word, counted from the most significant, is byte `k` of the four (R2). -/
theorem Frame.word_byte (f : List Byte) (i : Nat) {k : Nat} (hk : k < 4) :
    (Frame.word f i).extractLsb' (8 * (3 - k)) 8 = f.getD (i + k) 0 := by
  have key : ∀ b : Fin 4 → Byte,
      BitVec.extractLsb' (n := 8 + 8 + (8 + 8)) (8 * (3 - k)) 8 (b 0 ++ b 1 ++ (b 2 ++ b 3)) = b ⟨k, hk⟩ := by
    intro b
    match k with
    | 0 =>
      rw [BitVec.extractLsb'_append_eq_of_le (by omega), BitVec.extractLsb'_append_eq_of_le (by omega)]
      exact BitVec.extractLsb'_eq_self
    | 1 =>
      rw [BitVec.extractLsb'_append_eq_of_le (by omega), BitVec.extractLsb'_append_eq_of_add_le (by omega)]
      exact BitVec.extractLsb'_eq_self
    | 2 =>
      rw [BitVec.extractLsb'_append_eq_of_add_le (by omega), BitVec.extractLsb'_append_eq_of_le (by omega)]
      exact BitVec.extractLsb'_eq_self
    | 3 =>
      rw [BitVec.extractLsb'_append_eq_of_add_le (by omega), BitVec.extractLsb'_append_eq_of_add_le (by omega)]
      exact BitVec.extractLsb'_eq_self
  exact key fun j => f.getD (i + j) 0

/-- A read that finds a good check code completes by the line's content, and changes nothing else (R174). -/
theorem State.readWord_of_good {s : State} {la : BitVec 15} (h : s.checkGood (lineOf la) = true) :
    s.readWord la =
      { s with
        access := none
        completion := some
          (if (s.lineRec (lineOf la)).content = .valid then
            ⟨true, some (wordAt (s.lineBytes (lineOf la)) (wordOf la))⟩
          else ⟨false, some 0⟩) } := by
  simp only [State.readWord, h, Bool.not_true, Bool.false_eq_true, if_false, bne_iff_ne, ne_eq, ite_not]
  (repeat' split) <;> rfl

/-- Settles O8: the word of a VALID line is read from the struck line, byte by byte in the order of R2. -/
theorem grantedReadReturnsTheWord : Obligations.GrantedReadReturnsTheWord := by
  unfold Obligations.GrantedReadReturnsTheWord
  intro s a u h hk hgood
  refine ⟨wordAt ((s.strike (lineOf a.la) u).lineBytes (lineOf a.la)) (wordOf a.la), ?_, fun k hlt => ?_⟩
  · have hexec : exec (.readClaimGranted u) s = execReadClaimGranted u s := rfl
    have hread := State.readWord_of_good
      (s := { s.strike (lineOf a.la) u with hold := holdAtGrant (s.strike (lineOf a.la) u) a }) hgood
    have hhold : holdAtGrant (s.strike (lineOf a.la) u) a = holdAtGrant s a := by simp [holdAtGrant]
    rw [hexec, execReadClaimGranted_of_acts u h hk, State.bindHold_eq, hread, hhold, ← s.strike_lineRec (lineOf a.la) u]
    rfl
  · have hw := wordOf_lt a.la
    rw [wordAt, Frame.word_byte _ _ hlt, State.lineBytes_getD _ _ (by omega), Nat.add_assoc]

end Sys2Proof.Machine

namespace Sys2Proof.Machine

/-! ## Invariants and results -/

/-- Every next state of a result has a property. -/
def Result.Meets (r : Result) (P : State → Prop) : Prop := ∀ t, r = .next t → P t

@[simp] theorem Result.meets_next {P : State → Prop} {t : State} : Result.Meets (.next t) P ↔ P t :=
  ⟨fun h => h t rfl, fun h _ e => by cases e; exact h⟩

/-- A step keeps what the tick keeps and what every command keeps; the queue of commands is not looked at. -/
theorem step_meets {P : State → Prop} (htick : ∀ s : State, P s → P s.tick)
    (hrest : ∀ (s : State) (q : List Instr), P s → P { s with pending := q })
    (hexec : ∀ (i : Instr) (s : State), P s → Result.Meets (exec i s) P) {s : State} (h : P s) :
    Result.Meets (step s) P := by
  unfold step
  split
  · exact Result.meets_next.2 (htick s h)
  · exact hexec _ _ (hrest s _ h)

/-! ## What the part holds of its lines -/

/-- The Replica Store, the Line Directory, and every list, table and pointer that names a line. -/
structure Holdings where
  mem : List Host.Cell
  codes : List (Nat × BitVec 16)
  lines : List (Nat × LineRecord)
  applyQueue : List ApplyEntry
  postList : List Nat
  repairList : List RepairEntry
  answerQueue : List Nat
  slots : Vector Slot 16
  build : Option Build
  pointer : Nat
  queried : Nat
  phase : ResetPhase

/-- What a state holds of its lines. -/
def State.holdings (s : State) : Holdings where
  mem := s.mem
  codes := s.codes
  lines := s.lines
  applyQueue := s.applyQueue
  postList := s.postList
  repairList := s.repairList
  answerQueue := s.answerQueue
  slots := s.slots
  build := s.build
  pointer := s.sweep.pointer
  queried := s.query.line
  phase := s.phase

section
variable (s : State)

theorem State.holdings_giveBoth (a b : Notice) : (s.giveBoth a b).holdings = s.holdings := by
  rw [State.giveBoth_frame]; rfl

theorem State.holdings_drainTest : s.drainTest.holdings = s.holdings := by
  rw [State.drainTest_frame]; rfl

theorem State.holdings_endDrain : s.endDrain.holdings = s.holdings := by
  rw [State.endDrain_frame]; rfl

theorem State.holdings_withdraw (test : List Byte → Bool) : (s.withdraw test).holdings = s.holdings := by
  rw [State.withdraw_frame]; rfl

theorem State.holdings_leaveRing : s.leaveRing.holdings = s.holdings := by
  obtain ⟨_, _, _, _, h⟩ := s.leaveRing_frame
  rw [h]; rfl

theorem State.holdings_takeAccess (a : Access) : (s.takeAccess a).holdings = s.holdings := by
  rw [State.takeAccess_frame]; rfl

theorem State.holdings_resumeCleared : s.resumeCleared.holdings = s.holdings := by
  rw [State.resumeCleared_frame]; rfl

theorem State.holdings_resumeApplied : s.resumeApplied.holdings = s.holdings := by
  rw [State.resumeApplied_frame]; rfl

theorem State.holdings_bindHold (a : Access) : (s.bindHold a).holdings = s.holdings := by
  rw [State.bindHold_eq]; rfl

theorem State.holdings_sampleHold (lhold noByte : Bool) : (s.sampleHold lhold noByte).holdings = s.holdings := by
  unfold State.sampleHold
  split
  · rfl
  · split
    · split <;> rfl
    all_goals rfl

theorem State.holdings_failWaiting : s.failWaiting.holdings = s.holdings := by
  unfold State.failWaiting
  split
  · split
    · split <;> rfl
    · rfl
  · rfl

theorem State.holdings_giveApplied (e : ApplyEntry) : (s.giveApplied e).holdings = s.holdings := by
  unfold State.giveApplied
  dsimp only
  split <;> rfl

theorem State.holdings_progress (sent : Nat) : (s.progress sent).holdings = s.holdings := by
  unfold State.progress
  split <;> rfl

theorem State.holdings_enterFifo (copy : List Byte) (sent : Nat) : (s.enterFifo copy sent).holdings = s.holdings := by
  unfold State.enterFifo
  dsimp only
  rw [← s.holdings_progress sent]
  split <;> rfl

theorem State.holdings_probeReturns (map : BitVec 32) : (s.probeReturns map).holdings = s.holdings := by
  unfold State.probeReturns
  dsimp only
  split <;> split <;> rfl

theorem State.holdings_reportProbe (number : BitVec 8) : (s.reportProbe number).holdings = s.holdings := by
  unfold State.reportProbe
  split
  · split <;> rfl
  · rfl

theorem State.holdings_endForwarded : s.endForwarded.holdings = s.holdings := by
  unfold State.endForwarded
  split <;> rfl

theorem State.holdings_chooseOutput : s.chooseOutput.holdings = s.holdings := by
  unfold State.chooseOutput
  split <;> rfl

theorem State.holdings_join : s.join.holdings = s.holdings := by
  unfold State.join State.joinRing
  dsimp only
  split <;> split <;> rfl

end

/-! ## The record table when the Repair List is emptied -/

/-- An entry of the emptied table stands at the line of an entry before, and is not what an unlisted line reads as. -/
theorem State.mem_unlistAll {s : State} {c : Nat × LineRecord} (hc : c ∈ s.unlistAll.lines) :
    ∃ b ∈ s.lines, b.1 = c.1 ∧ c.2 ≠ LineRecord.reset := by
  obtain ⟨b, hb, hbc⟩ := List.mem_filterMap.1 hc
  dsimp only at hbc
  split at hbc
  · cases hbc
  · next hr =>
    obtain rfl := Option.some.inj hbc
    exact ⟨b, hb, rfl, hr⟩

/-- Emptying the Repair List keeps the canonical form (R16). -/
theorem State.wf_unlistAll {s : State} (h : Sparse.Wf LineRecord.reset s.lines) :
    Sparse.Wf LineRecord.reset s.unlistAll.lines := by
  refine ⟨List.Pairwise.filterMap _ (fun a b hab c hc d hd => ?_) h.1, fun c hc => ?_⟩
  case refine_2 =>
    obtain ⟨-, -, -, hne⟩ := State.mem_unlistAll hc
    exact hne
  dsimp only at hc hd
  split at hc
  · cases hc
  · split at hd
    · cases hd
    · obtain rfl := Option.some.inj hc
      obtain rfl := Option.some.inj hd
      exact hab

/-- The record of the head entry's line loses its mark with the last entry, and no other record changes (R35). -/
theorem State.lineRec_popApply (s : State) (e : ApplyEntry) (rest : List ApplyEntry) (l : Nat) :
    (s.popApply e rest).lineRec l =
      if l = e.line then { s.lineRec e.line with applyPending := rest.any fun x => x.line == e.line } else s.lineRec l :=
  State.lineRec_setRec { s with applyQueue := rest } e.line l _

/-! ## What the decision on an update can do -/

/-- What may follow from an update: a newer stamp is raised, with the apply queued where there is room or with the line
turned STALE; an equal stamp heals an untrusted line that no queued FULL covers; nothing else
changes the state (R26 to R32). -/
inductive State.Decided (s : State) (u : Update) : State → Prop where
  | raised (newer : u.stamp.newer (s.lineRec u.line).stamp = true) (room : s.applyFullHouse = false) :
    s.Decided u (s.raiseAndQueue u)
  | stale (newer : u.stamp.newer (s.lineRec u.line).stamp = true) : s.Decided u (s.raiseStale u)
  | heal (stamp : u.stamp = (s.lineRec u.line).stamp) (untrusted : (s.lineRec u.line).content ≠ .valid)
    (uncovered : s.covered u.line = false) (kind : u.kind = .full) (room : s.applyFullHouse = false) :
    s.Decided u (s.queueApply u .heal)
  | unchanged : s.Decided u s

theorem State.decideUpdate_decided (s : State) (u : Update) : s.Decided u (s.decideUpdate u).1 := by
  unfold State.decideUpdate
  dsimp only
  split
  · next hnew =>
    have hraise : s.Decided u (if s.applyFullHouse then s.raiseStale u else s.raiseAndQueue u) := by
      split
      · exact .stale hnew
      · next hfull => exact .raised hnew (Bool.eq_false_iff.2 hfull)
    split
    · rw [apply_ite Prod.fst]; exact hraise
    · split
      · rw [apply_ite Prod.fst]; exact hraise
      · exact .stale hnew
  · split
    · next hstamp =>
      split
      · exact .unchanged
      · next htrusted =>
        rw [not_or, Bool.not_eq_true] at htrusted
        split
        · next hkind =>
          split
          · exact .unchanged
          · next hfull => exact .heal hstamp htrusted.1 htrusted.2 hkind (Bool.eq_false_iff.2 hfull)
        · exact .unchanged
    · exact .unchanged

/-! ## The commands that leave the holdings as they are -/

/-- The commands of the ring side, of the control window and of the port that touch no line: all but those that reset,
claim the Replica Store, move a record, or change a list that names lines. -/
def leavesHoldings : Instr → Bool
  | .replicaRead _ _ | .replicaWrite _ _ _ _ | .configWrite _ _ | .start _ | .drain _ | .intenable _ | .unknownCommand _
  | .statusRead | .noticeRead | .readOnlyWrite _ _ _ | .unassignedAccess _ _ | .lholdDeasserted | .holdBreak
  | .receptionBrokenOff _ | .carrierRegained | .outputArbiterChoice | .switchToActive _ | .switchToPassThrough
  | .probeIntervalExpiry | .sweepTick | .frameInReceptionBegins | .passThroughRepeatBegins => true
  | _ => false

theorem exec_leavesHoldings {i : Instr} (hi : leavesHoldings i = true) (s : State) :
    Result.Meets (exec i s) fun t => t.holdings = s.holdings := by
  cases i
  case replicaRead la lhold =>
    simp only [exec, execReplicaRead, Result.meets_next]
    split
    · rw [State.holdings_takeAccess, State.holdings_sampleHold]
    · rfl
  case replicaWrite la be ld lhold =>
    simp only [exec, execReplicaWrite, Result.meets_next]
    split
    · rw [State.holdings_takeAccess, State.holdings_sampleHold]
    · rfl
  case configWrite => simp only [exec, execConfigWrite, Result.meets_next]; (repeat' split) <;> rfl
  case start arg =>
    simp only [exec, execStart, Result.meets_next]
    split
    · rfl
    · split
      · rfl
      · split
        · rfl
        · split
          · rfl
          · exact s.holdings_join
  case drain arg =>
    simp only [exec, execDrain, Result.meets_next]
    split
    · rfl
    · split
      · rfl
      · split
        · rfl
        · exact State.holdings_drainTest _
  case intenable => simp only [exec, execIntenable, Result.meets_next]; (repeat' split) <;> rfl
  case unknownCommand => simp only [exec, execUnknownCommand, Result.meets_next]; (repeat' split) <;> rfl
  case statusRead => simp only [exec, execStatusRead, Result.meets_next]; (repeat' split) <;> rfl
  case noticeRead => simp only [exec, execNoticeRead, Result.meets_next]; (repeat' split) <;> rfl
  case readOnlyWrite => simp only [exec, execReadOnlyWrite, Result.meets_next]; (repeat' split) <;> rfl
  case unassignedAccess => simp only [exec, execUnassignedAccess, Result.meets_next]; (repeat' split) <;> rfl
  case lholdDeasserted => simp only [exec, execLholdDeasserted, Result.meets_next]; (repeat' split) <;> rfl
  case holdBreak =>
    simp only [exec, execHoldBreak, Result.meets_next]
    split
    · exact State.holdings_failWaiting _
    all_goals rfl
  case receptionBrokenOff => simp only [exec, execReceptionBrokenOff, Result.meets_next]; (repeat' split) <;> rfl
  case carrierRegained => simp only [exec, execCarrierRegained, Result.meets_next]; (repeat' split) <;> rfl
  case outputArbiterChoice =>
    simp only [exec, execOutputArbiterChoice, Result.meets_next]
    split
    · rw [State.holdings_chooseOutput, State.holdings_endForwarded]
    · rfl
  case switchToActive => simp only [exec, execSwitchToActive, Result.meets_next]; (repeat' split) <;> rfl
  case switchToPassThrough =>
    simp only [exec, execSwitchToPassThrough, Result.meets_next]
    split
    · exact s.holdings_endForwarded
    · rfl
  case probeIntervalExpiry => simp only [exec, execProbeIntervalExpiry, Result.meets_next]; split <;> rfl
  case sweepTick =>
    simp only [exec, execSweepTick, Result.meets_next]
    split
    · simp only [SweepUnit.tick]
      (repeat' split) <;> rfl
    · rfl
  case frameInReceptionBegins => simp only [exec, execFrameInReceptionBegins, Result.meets_next]; (repeat' split) <;> rfl
  case passThroughRepeatBegins => simp only [exec, execPassThroughRepeatBegins, Result.meets_next]; (repeat' split) <;> rfl
  all_goals cases hi

/-! ## What each of the other commands can do

One rule a command: a property of its next states is shown by showing it of each state that the command can answer. -/

/-- A slot that awaits a deadline is in use for the purpose, with the deadline present (R80). -/
theorem State.deadlineOf_eq_some {s : State} {i : SlotNo} {p : Purpose} {u : SlotUse} {d : Nat}
    (h : s.deadlineOf i p = some (u, d)) : (s.slot i).use = some u ∧ u.purpose = p ∧ u.deadline = some d := by
  unfold State.deadlineOf at h
  split at h
  · next v hv =>
    split at h
    · next hp =>
      obtain ⟨e, he, heq⟩ := Option.map_eq_some_iff.1 h
      obtain ⟨rfl, rfl⟩ := Prod.mk.inj heq
      exact ⟨hv, hp, he⟩
    · cases h
  · cases h

/-- The sweep lists untrusted lines alone (R122). -/
theorem State.untrusted_of_listing {s : State} {line : Nat} (h : s.sweepCase line = .listing) :
    (s.lineRec line).content ≠ .valid := by
  intro hv
  simp only [State.sweepCase, hv] at h
  split at h <;> cases h

/-- A write that nothing refuses finds a VALID line, without apply pending where it is the held line (R50). -/
theorem State.of_writeRefusal_eq_none {s : State} {line : Nat} {good : Bool} (h : s.writeRefusal line good = none) :
    (s.lineRec line).content = .valid
      ∧ (s.isHeld line = true → (s.lineRec line).applyPending = false) := by
  unfold State.writeRefusal at h
  dsimp only at h
  split at h
  · cases h
  · next hheld =>
    split at h
    · cases h
    · next hstale =>
      split at h
      · cases h
      · next hsuspect =>
        refine ⟨?_, fun hh => by simpa [hh] using hheld⟩
        cases hc : (s.lineRec line).content with
        | valid => rfl
        | stale => simp [hc] at hstale
        | suspect => simp [hc] at hsuspect

/-- The hold that a grant binds takes no held line away (R180). -/
theorem State.isHeld_bindHold {s : State} (a : Access) {line : Nat} (h : s.isHeld line = true) :
    (s.bindHold a).isHeld line = true := by
  rw [State.bindHold_eq]
  unfold holdAtGrant
  split
  · next hfree =>
    obtain ⟨-, hfree, -⟩ := hfree
    simp [State.isHeld, hfree] at h
  · exact h

/-- A granted access acts on a line with nothing queued or on the held line, also once its hold is bound (R49, R174). -/
theorem GrantActs.unqueued_or_held {s : State} {a : Access} (h : GrantActs s a) (u : Option Upset) :
    (((s.strike (lineOf a.la) u).bindHold a).lineRec (lineOf a.la)).applyPending = false
      ∨ ((s.strike (lineOf a.la) u).bindHold a).isHeld (lineOf a.la) = true := by
  obtain ⟨-, -, hunqueued | hheld⟩ := h
  · left
    rw [State.bindHold_eq]
    exact (congrArg LineRecord.applyPending (s.strike_lineRec _ u _)).trans hunqueued
  · exact .inr (State.isHeld_bindHold a (by rw [State.strike_isHeld]; exact hheld))

theorem grantActs_of_not_waiting {s : State} {a : Access} (ha : s.access = some a) (hg : s.grantsLocal = true)
    (hw : ¬ s.keepsWaiting (lineOf a.la) = true) : GrantActs s a := by
  refine ⟨ha, hg, ?_⟩
  cases hp : (s.lineRec (lineOf a.la)).applyPending <;> cases hh : s.isHeld (lineOf a.la) <;>
    simp [State.keepsWaiting, hp, hh] at hw ⊢

section
variable {P : State → Prop} {s : State} (hs : P s)
include hs

theorem execReadClaimGranted_meets (u : Option Upset)
    (hwait : ∀ a, s.access = some a → P { s with access := some { a with phase := .apply } })
    (hacts : ∀ a, GrantActs s a → P (((s.strike (lineOf a.la) u).bindHold a).readWord a.la)) :
    (execReadClaimGranted u s).Meets P := by
  simp only [execReadClaimGranted, Result.meets_next]
  split
  · next a ha =>
    split
    · next hg =>
      split
      · exact hwait a ha
      · next hw => exact hacts a (grantActs_of_not_waiting ha (Bool.and_eq_true_iff.1 hg).1 hw)
    · exact hs
  · exact hs

theorem execWriteClaimGranted_meets (u : Option Upset)
    (hwait : ∀ a, s.access = some a → P { s with access := some { a with phase := .apply } })
    (hacts : ∀ a be ld, GrantActs s a → P (((s.strike (lineOf a.la) u).bindHold a).writeWord a.la be ld)) :
    (execWriteClaimGranted u s).Meets P := by
  simp only [execWriteClaimGranted, Result.meets_next]
  split
  · next a ha =>
    split
    · split
      · next hg =>
        split
        · exact hwait a ha
        · next hw => exact hacts a _ _ (grantActs_of_not_waiting ha hg hw)
      · exact hs
    · exact hs
  · exact hs

theorem execLeave_meets (arg : BitVec 16) (hrefused : P (s.answer 2 arg .wrongState))
    (hleave : P ((s.depart .offline).endDrain.answer 2 arg .accepted)) : (execLeave arg s).Meets P := by
  simp only [execLeave, Result.meets_next]
  split
  · exact hs
  · split
    · exact hleave
    · exact hrefused

theorem execWatch_meets (line : BitVec 16) (hbad : P (s.answer 4 line .badLine))
    (hset : s.inWindow line.toNat = true → P ((s.setWatched line.toNat true).answer 4 line .accepted)) :
    (execWatch line s).Meets P := by
  simp only [execWatch, Result.meets_next]
  split
  · exact hs
  · split
    · next hw => exact hset hw
    · exact hbad

theorem execUnwatch_meets (line : BitVec 16) (hbad : P (s.answer 5 line .badLine))
    (hset : s.inWindow line.toNat = true → P ((s.setWatched line.toNat false).answer 5 line .accepted)) :
    (execUnwatch line s).Meets P := by
  simp only [execUnwatch, Result.meets_next]
  split
  · exact hs
  · split
    · next hw => exact hset hw
    · exact hbad

theorem execQuery_meets (line : BitVec 16) (hbad : P (s.answer 6 line .badLine))
    (hset : s.inWindow line.toNat = true →
      P (({ s with query := (s.lineRec line.toNat).query line.toNat } : State).answer 6 line .accepted)) :
    (execQuery line s).Meets P := by
  simp only [execQuery, Result.meets_next]
  split
  · exact hs
  · split
    · next hw => exact hset hw
    · exact hbad

theorem execFrameReceivedWhole_meets (bytes : List Byte) (sent : Nat) (hdropped : P { s with receiving := false })
    (hrouted : P (({ s with receiving := false } : State).routeFrame bytes sent)) :
    (execFrameReceivedWhole bytes sent s).Meets P := by
  simp only [execFrameReceivedWhole, Result.meets_next]
  split
  · split
    · exact hrouted
    · exact hdropped
  · exact hs

theorem execCarrierLost_meets (hlost : P { s with carrier := false, receiving := false })
    (hisolated : P (({ s with carrier := false, receiving := false } : State).enterIsolated .carrier)) :
    (execCarrierLost s).Meets P := by
  simp only [execCarrierLost, Result.meets_next]
  split
  · split
    · exact hisolated
    · exact hisolated
    all_goals exact hlost
  · exact hs

theorem execInsertionComplete_meets
    (hreport : ∀ f, s.place = some f → P (({ s with sending := .idle, place := none } : State).reportInsertion f)) :
    (execInsertionComplete s).Meets P := by
  simp only [execInsertionComplete, Result.meets_next]
  split
  · next f _ hf => exact hreport f hf
  · exact hs

theorem execFramerChoice_meets (hchoose : P s.choose) : (execFramerChoice s).Meets P := by
  simp only [execFramerChoice, Result.meets_next]
  split
  · exact hchoose
  · exact hs

theorem execPostBuild_meets (u : Option Upset)
    (hbuild : ∀ line, FetchGranted s (.post line) → P ((s.strike line u).buildPost line)) :
    (execPostBuild u s).Meets P := by
  simp only [execPostBuild, Result.meets_next]
  split
  · next line hb =>
    split
    · next hg => exact hbuild line ⟨hb, hg⟩
    · exact hs
  · exact hs

theorem execMendResendBuild_meets (u : Option Upset) (hgone : P s.abandonBuild)
    (hbuild : ∀ i v, FetchGranted s (.mendResend i) → (s.slot i).use = some v →
      P ((s.strike v.line u).buildMendResend i v)) :
    (execMendResendBuild u s).Meets P := by
  simp only [execMendResendBuild, Result.meets_next]
  split
  · next i hb =>
    split
    · next hg =>
      split
      · next v hv => exact hbuild i v ⟨hb, hg⟩ hv
      · exact hgone
    · exact hs
  · exact hs

theorem execReplacementBuild_meets (u : Option Upset) (hgone : P s.abandonBuild)
    (hbuild : ∀ i v, FetchGranted s (.replacement i) → (s.slot i).use = some v →
      P ((s.strike v.line u).buildReplacement i v)) :
    (execReplacementBuild u s).Meets P := by
  simp only [execReplacementBuild, Result.meets_next]
  split
  · next i hb =>
    split
    · next hg =>
      split
      · next v hv => exact hbuild i v ⟨hb, hg⟩ hv
      · exact hgone
    · exact hs
  · exact hs

theorem execAnswerBuild_meets (u : Option Upset) (hgone : P s.abandonBuild)
    (hbuild : ∀ line rest, FetchGranted s .answer → s.answerQueue = line :: rest →
      P ((s.strike line u).buildAnswer line rest)) :
    (execAnswerBuild u s).Meets P := by
  simp only [execAnswerBuild, Result.meets_next]
  split
  · next hb =>
    split
    · next hg =>
      split
      · next line rest hq => exact hbuild line rest ⟨hb, hg⟩ hq
      · exact hgone
    · exact hs
  · exact hs

theorem execSweepRefreshFetch_meets (u : Option Upset)
    (hfetch : FetchGranted s .sweep → P ((s.strike s.sweep.pointer u).fetchSweep s.sweep.pointer)) :
    (execSweepRefreshFetch u s).Meets P := by
  simp only [execSweepRefreshFetch, Result.meets_next]
  split
  · next hb =>
    split
    · next hg => exact hfetch ⟨hb, hg⟩
    · exact hs
  · exact hs

theorem execApplyFull_meets
    (happly : ∀ e rest, s.applyQueue = e :: rest → s.grantsApply = true → e.kind = .full →
      P (s.applyFullEntry e rest).resumeApplied) :
    (execApplyFull s).Meets P := by
  simp only [execApplyFull, Result.meets_next]
  split
  · next e rest hq =>
    split
    · next hg =>
      rw [Bool.and_eq_true, beq_iff_eq] at hg
      exact happly e rest hq hg.1 hg.2
    · exact hs
  · exact hs

theorem execApplyDelta_meets (u : Option Upset)
    (happly : ∀ e rest, s.applyQueue = e :: rest → s.grantsApply = true → e.kind = .delta →
      P (s.applyDeltaEntry e rest u).resumeApplied) :
    (execApplyDelta u s).Meets P := by
  simp only [execApplyDelta, Result.meets_next]
  split
  · next e rest hq =>
    split
    · next hg =>
      rw [Bool.and_eq_true, beq_iff_eq] at hg
      exact happly e rest hq hg.1 hg.2
    · exact hs
  · exact hs

theorem execUpdateDeadline_meets (i : SlotNo)
    (hdeadline : ∀ u d, (s.slot i).use = some u → u.purpose = .update → u.deadline = some d →
      P ((s.reach d).updateDeadline i u)) :
    (execUpdateDeadline i s).Meets P := by
  simp only [execUpdateDeadline, Result.meets_next]
  split
  · next u d hd =>
    obtain ⟨hu, hp, hd⟩ := State.deadlineOf_eq_some hd
    exact hdeadline u d hu hp hd
  · exact hs

theorem execRepairDeadline_meets (i : SlotNo)
    (hdeadline : ∀ u d, (s.slot i).use = some u → u.purpose = .repair → u.deadline = some d →
      P ((s.reach d).repairUnanswered i u)) :
    (execRepairDeadline i s).Meets P := by
  simp only [execRepairDeadline, Result.meets_next]
  split
  · next u d hd =>
    obtain ⟨hu, hp, hd⟩ := State.deadlineOf_eq_some hd
    exact hdeadline u d hu hp hd
  · exact hs

theorem execProbeLost_meets (hlost : ∀ d, P (s.reach d).loseProbe) : (execProbeLost s).Meets P := by
  simp only [execProbeLost, Result.meets_next]
  split
  · exact hlost _
  all_goals exact hs

end

end Sys2Proof.Machine

namespace Sys2Proof.Machine

/-! ## The invariant -/

/-- Canonical form and ranges together, with a name for each part (R2, R6). -/
structure State.Contained (s : State) : Prop where
  memWf : Memory.wf s.mem
  codesWf : Sparse.Wf zeroCode s.codes
  linesWf : Sparse.Wf LineRecord.reset s.lines
  mem : ∀ c ∈ s.mem, c.1 < 131072
  codes : ∀ c ∈ s.codes, c.1 < 4096
  lines : ∀ c ∈ s.lines, c.1 < 4096
  applyQueue : ∀ e ∈ s.applyQueue, e.line < 4096
  postList : ∀ l ∈ s.postList, l < 4096
  repairList : ∀ e ∈ s.repairList, e.line < 4096
  answerQueue : ∀ l ∈ s.answerQueue, l < 4096
  slots : ∀ i u, (s.slot i).use = some u → u.line < 4096
  build : ∀ l, s.build = some (.post l) → l < 4096
  pointer : s.sweep.pointer < 4096
  queried : s.query.line < 4096
  phase : ∀ n, s.phase = .clearing n → n < 4096

theorem State.contained_iff (s : State) : s.Contained ↔ s.Canonical ∧ s.WithinReplica := by
  unfold State.Canonical State.WithinReplica
  constructor
  · intro h
    exact ⟨⟨h.memWf, h.codesWf, h.linesWf⟩, h.mem, h.codes, h.lines, h.applyQueue, h.postList, h.repairList,
      h.answerQueue, h.slots, h.build, h.pointer, h.queried, h.phase⟩
  · rintro ⟨⟨hmemWf, hcodesWf, hlinesWf⟩, hmem, hcodes, hlines, happly, hposts, hrepairs, hanswers, hslots, hbuild, hpointer,
      hqueried, hphase⟩
    exact ⟨hmemWf, hcodesWf, hlinesWf, hmem, hcodes, hlines, happly, hposts, hrepairs, hanswers, hslots, hbuild, hpointer,
      hqueried, hphase⟩

/-- No window is larger than the replica (R1). -/
theorem State.window_le (s : State) : s.window ≤ 4096 := by
  simp only [State.window, windowOf]
  split
  · next h => obtain h | h | h | h := h <;> rw [h] <;> decide
  · exact Nat.zero_le _

/-- A line within the window is one of the 4096 (R1). -/
theorem State.lt_of_inWindow {s : State} {line : Nat} (h : s.inWindow line = true) : line < 4096 :=
  Nat.lt_of_lt_of_le (of_decide_eq_true h) s.window_le

/-- A word address of the replica window names one of the 4096 lines (9.1). -/
theorem lineOf_lt (la : BitVec 15) : lineOf la < 4096 := by
  have := la.isLt
  unfold lineOf
  omega

/-- Merging bytes into a line keeps its length. -/
theorem Mask.merge_length (m : Mask) (p : Nat) (bs ds : List Byte) : (Mask.merge m p bs ds).length = bs.length := by
  induction bs generalizing p ds with
  | nil => rfl
  | cons b bs ih =>
    unfold Mask.merge
    split
    · split <;> simp [ih]
    · simp [ih]

namespace State.Contained

/-- The invariant looks at the holdings alone. -/
theorem of_holdings {s t : State} (h : s.Contained) (e : t.holdings = s.holdings) : t.Contained := by
  have hslots : t.slots = s.slots := congrArg Holdings.slots e
  have hslot : ∀ i, t.slot i = s.slot i := fun i => by simp only [State.slot, hslots]
  have hmem : t.mem = s.mem := congrArg Holdings.mem e
  have hcodes : t.codes = s.codes := congrArg Holdings.codes e
  have hlines : t.lines = s.lines := congrArg Holdings.lines e
  have hqueue : t.applyQueue = s.applyQueue := congrArg Holdings.applyQueue e
  have hposts : t.postList = s.postList := congrArg Holdings.postList e
  have hrepairs : t.repairList = s.repairList := congrArg Holdings.repairList e
  have hanswers : t.answerQueue = s.answerQueue := congrArg Holdings.answerQueue e
  have hbuild : t.build = s.build := congrArg Holdings.build e
  have hpointer : t.sweep.pointer = s.sweep.pointer := congrArg Holdings.pointer e
  have hqueried : t.query.line = s.query.line := congrArg Holdings.queried e
  have hphase : t.phase = s.phase := congrArg Holdings.phase e
  exact {
    memWf := hmem ▸ h.memWf
    codesWf := hcodes ▸ h.codesWf
    linesWf := hlines ▸ h.linesWf
    mem := hmem ▸ h.mem
    codes := hcodes ▸ h.codes
    lines := hlines ▸ h.lines
    applyQueue := hqueue ▸ h.applyQueue
    postList := hposts ▸ h.postList
    repairList := hrepairs ▸ h.repairList
    answerQueue := hanswers ▸ h.answerQueue
    slots := fun i u hu => h.slots i u (hslot i ▸ hu)
    build := hbuild ▸ h.build
    pointer := hpointer ▸ h.pointer
    queried := hqueried ▸ h.queried
    phase := hphase ▸ h.phase }

variable {s : State} (h : s.Contained)
include h

/-! ## The Replica Store -/

theorem writeCells {line : Nat} (hl : line < 4096) (bytes : List Byte) (hb : bytes.length = 32) (code : BitVec 16) :
    (s.writeCells line bytes code).Contained := by
  refine { h with memWf := ?_, codesWf := ?_, mem := ?_, codes := ?_ }
  · exact Memory.wf_writeBytes h.memWf _ _
  · rw [State.writeCells_codes]
    exact Sparse.Wf.set zeroCode h.codesWf line code
  · intro c hc
    obtain hin | hold := Memory.mem_writeBytes hc
    · omega
    · exact h.mem c hold
  · rw [State.writeCells_codes]
    intro c hc
    obtain rfl | hold := Sparse.mem_set zeroCode hc
    · exact hl
    · exact h.codes c hold

theorem writeLine {line : Nat} (hl : line < 4096) (bytes : List Byte) (hb : bytes.length = 32) :
    (s.writeLine line bytes).Contained :=
  h.writeCells hl bytes hb _

theorem strike {line : Nat} (hl : line < 4096) (u : Option Upset) : (s.strike line u).Contained := by
  cases u with
  | none => exact h
  | some u => exact h.writeCells hl _ (by simp) _

/-! ## Records and the lists they follow -/

theorem setRec {line : Nat} (hl : line < 4096) (r : LineRecord) : (s.setRec line r).Contained :=
  { h with
    linesWf := h.linesWf.set _ _ _
    lines := fun c hc => by
      obtain rfl | hold := Sparse.mem_set _ hc
      · exact hl
      · exact h.lines c hold }

theorem listLine {line : Nat} (hl : line < 4096) : (s.listLine line).Contained := by
  unfold State.listLine
  dsimp only
  split
  · exact h
  · exact { h.setRec hl _ with
      repairList := fun e he => by
        obtain he | he := List.mem_append.1 he
        · exact h.repairList e he
        · rw [List.mem_singleton.1 he]; exact hl }

theorem unlistLine {line : Nat} (hl : line < 4096) : (s.unlistLine line).Contained :=
  { h.setRec hl _ with repairList := fun e he => h.repairList e (List.mem_filter.1 he).1 }

theorem setPostList {posts : List Nat} (hp : ∀ l ∈ posts, l < 4096) : ({ s with postList := posts } : State).Contained :=
  { h with postList := hp }

theorem unpost (line : Nat) : (s.unpost line).Contained :=
  { h with postList := fun l hl => h.postList l (List.mem_filter.1 hl).1 }

theorem give (n : Notice) : (s.give n).Contained := h.of_holdings rfl

theorem complete (ok : Bool) (ld : Option Word) : (s.complete ok ld).Contained := h.of_holdings rfl

theorem drainTest : s.drainTest.Contained := h.of_holdings s.holdings_drainTest

theorem unlistAll : s.unlistAll.Contained :=
  { h with
    linesWf := State.wf_unlistAll h.linesWf
    lines := fun c hc => by
      obtain ⟨b, hb, hbc, -⟩ := State.mem_unlistAll hc
      rw [← hbc]
      exact h.lines b hb
    repairList := fun e he => absurd he List.not_mem_nil }

theorem loseWaitingPost {line : Nat} (hl : line < 4096) : (s.loseWaitingPost line).Contained := by
  unfold State.loseWaitingPost
  dsimp only
  split
  · exact ((h.setRec hl _).unpost line).give _
  · exact ((h.setRec hl _).unpost line).give _
  all_goals exact h

theorem checkFailure {line : Nat} (hl : line < 4096) : (s.checkFailure line).Contained :=
  ((h.loseWaitingPost hl).setRec hl _).listLine hl

theorem endFlight (i : SlotNo) {line : Nat} (hl : line < 4096) (mustFull : Bool) :
    (s.endFlight i line mustFull).Contained := by
  unfold State.endFlight
  dsimp only
  split
  · split
    · exact h.setRec hl _
    · exact h
  · split
    · exact h.setRec hl _
    · exact h
  all_goals exact h

/-! ## Slots -/

theorem setSlot (i : SlotNo) {x : Slot} (hx : ∀ u, x.use = some u → u.line < 4096) : (s.setSlot i x).Contained :=
  { h with
    slots := fun j u hu => by
      by_cases hj : j = i
      · rw [hj, State.slot_setSlot_same] at hu
        exact hx u hu
      · rw [State.slot_setSlot_other s x hj] at hu
        exact h.slots j u hu }

theorem freeSlot (i : SlotNo) : (s.freeSlot i).Contained := h.setSlot i fun _ hu => nomatch hu

theorem freeRepairSlot (line : Nat) : (s.freeRepairSlot line).Contained :=
  { h with
    slots := fun i u hu => by
      rw [State.slot_freeRepairSlot] at hu
      split at hu
      · cases hu
      · exact h.slots i u hu }

theorem makeDue (i : SlotNo) {u : SlotUse} (hu : u.line < 4096) (kind : TxKind) (n : Nat) :
    (s.makeDue i u kind n).Contained :=
  (h.setSlot i
    (x := { s.slot i with
      use := some { u with attempts := n, due := some ⟨kind, s.dueCount⟩, deadline := none } })
    fun v hv => by obtain rfl := Option.some.inj hv; exact hu).of_holdings rfl

theorem transmit (i : SlotNo) {u : SlotUse} (hu : u.line < 4096) : (s.transmit i u).Contained :=
  h.setSlot i fun v hv => by obtain rfl := Option.some.inj hv; exact hu

/-! ## The Framer's choice and the Sweep Unit -/

theorem setBuild {b : Option Build} (hb : ∀ l, b = some (.post l) → l < 4096) :
    ({ s with build := b } : State).Contained :=
  { h with build := hb }

theorem handOver (f : List Byte) : (s.handOver f).Contained :=
  (h.setBuild (b := none) fun _ e => nomatch e).of_holdings rfl

theorem abandonBuild : s.abandonBuild.Contained := h.setBuild (b := none) fun _ e => nomatch e

theorem endSweepStep : s.endSweepStep.Contained :=
  { h with
    pointer := by
      have hw := s.window_le
      show (if s.sweep.pointer + 1 < s.window then s.sweep.pointer + 1 else 0) < 4096
      split <;> omega }

/-! ## The Apply Unit -/

theorem popApply {e : ApplyEntry} {rest : List ApplyEntry} (he : e.line < 4096) (hr : ∀ x ∈ rest, x.line < 4096) :
    (s.popApply e rest).Contained :=
  State.Contained.setRec (s := { s with applyQueue := rest }) { h with applyQueue := hr } he _

theorem endRepair {line : Nat} (hl : line < 4096) : (s.endRepair line).Contained :=
  (h.unlistLine hl).freeRepairSlot line

theorem giveApplied (e : ApplyEntry) : (s.giveApplied e).Contained := h.of_holdings (s.holdings_giveApplied e)

theorem applyFullEntry {e : ApplyEntry} {rest : List ApplyEntry} (hq : s.applyQueue = e :: rest) :
    (s.applyFullEntry e rest).Contained := by
  have he : e.line < 4096 := h.applyQueue e (by simp [hq])
  have hr : ∀ x ∈ rest, x.line < 4096 := fun x hx => h.applyQueue x (by simp [hq, hx])
  have hw := h.writeLine he (Mask.merge Mask.all 0 (s.lineBytes e.line) e.data) (by simp [Mask.merge_length])
  unfold State.applyFullEntry
  dsimp only
  split
  · split
    · exact ((hw.setRec he _).popApply he hr).giveApplied e
    · exact (((hw.setRec he _).endRepair he).popApply he hr).giveApplied e
  · exact (hw.popApply he hr).giveApplied e

theorem applyDeltaEntry {e : ApplyEntry} {rest : List ApplyEntry} (hq : s.applyQueue = e :: rest) (u : Option Upset) :
    (s.applyDeltaEntry e rest u).Contained := by
  have he : e.line < 4096 := h.applyQueue e (by simp [hq])
  have hr : ∀ x ∈ rest, x.line < 4096 := fun x hx => h.applyQueue x (by simp [hq, hx])
  have hs := h.strike he u
  unfold State.applyDeltaEntry
  dsimp only
  split
  · exact h.popApply he hr
  · split
    · exact ((hs.checkFailure he).popApply he hr).drainTest
    · exact ((hs.writeLine he _ (by simp [Mask.merge_length])).popApply he hr).giveApplied e

/-! ## Changes of station state -/

theorem abandonLine (i : SlotNo) {line : Nat} (hl : line < 4096) : (s.abandonLine i line).Contained := by
  unfold State.abandonLine
  dsimp only
  split
  · split
    · split
      · exact h.setRec hl _
      · exact { h.setRec hl _ with
          postList := fun l hmem => by
            obtain hmem | hmem := List.mem_append.1 hmem
            · exact h.postList l hmem
            · rw [List.mem_singleton.1 hmem]; exact hl }
    · exact h
  · split
    · exact h.setRec hl _
    · exact h
  all_goals exact h

theorem abandonSlot (i : SlotNo) : (s.abandonSlot i).Contained := by
  unfold State.abandonSlot
  split
  · exact h
  · next u hu =>
    split
    · exact (h.freeSlot i).abandonLine i (h.slots i u hu)
    · exact h.freeSlot i

theorem abandonSlots : s.abandonSlots.Contained :=
  List.foldlRecOn allSlots State.abandonSlot h fun _ ht i _ => ht.abandonSlot i

theorem enterIsolated (detail : RingDownDetail) : (s.enterIsolated detail).Contained := by
  have ha := h.abandonSlots
  unfold State.enterIsolated
  generalize s.abandonSlots = t at ha ⊢
  have hw := ha.of_holdings (t.holdings_withdraw fun f => Frame.kind f != .probe)
  have ht := hw.setBuild (b := none) fun _ e => nomatch e
  dsimp only
  apply drainTest
  split
  · exact ht.of_holdings rfl
  · exact ht.of_holdings rfl

theorem depart (target : StationState) : (s.depart target).Contained := by
  have ha := h.abandonSlots
  unfold State.depart
  generalize s.abandonSlots = t at ha ⊢
  have ht : t.leaveRing.unlistAll.resetMembership.Contained :=
    (ha.of_holdings t.holdings_leaveRing).unlistAll.of_holdings rfl
  exact { ht with
    answerQueue := fun l hl => absurd hl List.not_mem_nil
    build := fun _ e => nomatch e }

theorem enterFault : s.enterFault.Contained := ((h.depart .fault).give _).of_holdings (State.holdings_endDrain _)

theorem loseProbe : s.loseProbe.Contained := by
  have ht : { s with probe := { s.probe with outstanding := none, losses := min 3 (s.probe.losses + 1) } }.Contained :=
    h.of_holdings rfl
  unfold State.loseProbe
  dsimp only
  split
  · exact ht.enterIsolated .probes
  · exact ht

/-! ## Own insertions and returns -/

theorem reportSlot (i : SlotNo) (generation : BitVec 4) : (s.reportSlot i generation).Contained := by
  unfold State.reportSlot
  dsimp only
  split
  · exact h
  · next u hu =>
    split
    · exact h.setSlot i fun v hv => by obtain rfl := Option.some.inj hv; exact h.slots i u hu
    · exact h

theorem reportInsertion (f : List Byte) : (s.reportInsertion f).Contained := by
  unfold State.reportInsertion
  split
  · exact h.of_holdings (s.holdings_reportProbe _)
  · split
    · exact h
    · exact h.reportSlot _ _
  · split
    · exact h
    · exact h.reportSlot _ _
  · exact h.reportSlot _ _
  · exact h

/-- A slot is freed and its line's flight ends. -/
theorem freeFlight (i : SlotNo) {line : Nat} (hl : line < 4096) (mustFull : Bool) :
    ((s.freeSlot i).endFlight i line mustFull).Contained :=
  (h.freeSlot i).endFlight i hl mustFull

theorem updateReturn (i : SlotNo) {u : SlotUse} (hu : u.line < 4096) (missed : Bool) :
    (s.updateReturn i u missed).Contained := by
  have hfree := h.freeFlight i hu
  have hconfirm : ∀ r : LineRecord,
      (if r.watched then ((s.freeSlot i).endFlight i u.line false).give (.confirmed u.line)
        else (s.freeSlot i).endFlight i u.line false).Contained := by
    intro r
    split
    · exact (hfree false).give _
    · exact hfree false
  unfold State.updateReturn
  dsimp only
  split
  · split
    · exact (hfree false).drainTest
    · split
      · exact (hconfirm _).drainTest
      · split
        · exact (hfree false).drainTest
        · split
          · exact h.makeDue i hu _ _
          · exact ((hfree false).give _).drainTest
  · split
    · exact (hfree false).drainTest
    · split
      · exact (hconfirm _).drainTest
      · exact (hfree true).drainTest
  · exact (h.freeSlot i).drainTest
  · exact (h.freeSlot i).drainTest

theorem repairUnanswered (i : SlotNo) {u : SlotUse} (hu : u.line < 4096) : (s.repairUnanswered i u).Contained := by
  unfold State.repairUnanswered
  split
  · exact h.makeDue i hu _ _
  · exact ((h.freeSlot i).unlistLine hu).give _

theorem returnFrame (f : List Byte) (p : Purpose) : (s.returnFrame f p).Contained := by
  unfold State.returnFrame
  dsimp only
  split
  · exact h
  · next u hu =>
    have hl := h.slots _ u hu
    split
    · split
      · exact h.updateReturn _ hl _
      · split
        · exact h
        · exact h.repairUnanswered _ hl
    · exact h

theorem strip (f : List Byte) : (s.strip f).Contained := by
  unfold State.strip
  split
  · unfold State.stripProbe
    split
    · exact h.enterFault
    · split
      · exact h.of_holdings (s.holdings_probeReturns _)
      · exact h
  · split
    · exact h
    · exact h.returnFrame f _
  · split
    · exact h
    · exact h.returnFrame f _
  · exact h.returnFrame f _
  · exact h

/-! ## The decisions on a peer's frame -/

theorem queueApply {u : Update} (hu : u.line < 4096) (cause : ApplyCause) : (s.queueApply u cause).Contained :=
  { h.setRec hu _ with
    applyQueue := fun e he => by
      obtain he | he := List.mem_append.1 he
      · exact h.applyQueue e he
      · rw [List.mem_singleton.1 he]; exact hu }

theorem raiseRec {u : Update} (hu : u.line < 4096) (content : Content) : (s.raiseRec u content).Contained :=
  (h.setRec hu _).unpost _

theorem raiseAndQueue {u : Update} (hu : u.line < 4096) : (s.raiseAndQueue u).Contained := by
  have ht := (h.raiseRec hu (s.lineRec u.line).content).queueApply hu .raise
  unfold State.raiseAndQueue
  dsimp only
  apply drainTest
  split
  · exact ht.give _
  · exact ht

theorem raiseStale {u : Update} (hu : u.line < 4096) : (s.raiseStale u).Contained := by
  have ht := (h.raiseRec hu .stale).listLine hu
  unfold State.raiseStale
  dsimp only
  apply drainTest
  split
  · exact ht.of_holdings (State.holdings_giveBoth _ _ _)
  · exact ht.give _
  · exact ht.give _
  · exact ht

theorem decideUpdate {u : Update} (hu : u.line < 4096) : (s.decideUpdate u).1.Contained := by
  have hd := s.decideUpdate_decided u
  generalize (s.decideUpdate u).1 = t at hd ⊢
  cases hd with
  | raised => exact h.raiseAndQueue hu
  | stale => exact h.raiseStale hu
  | heal => exact h.queueApply hu .heal
  | unchanged => exact h

theorem decideRequest {line : Nat} (hl : line < 4096) (stamp : Stamp) : (s.decideRequest line stamp).1.Contained := by
  unfold State.decideRequest
  split
  · dsimp only
    split
    · exact h
    · exact { h with
        answerQueue := fun l hmem => by
          obtain hmem | hmem := List.mem_append.1 hmem
          · exact h.answerQueue l hmem
          · rw [List.mem_singleton.1 hmem]; exact hl }
  · exact h

theorem act (f : List Byte) : (s.act f).1.Contained := by
  unfold State.act
  dsimp only
  split
  · split
    · next hw => exact h.decideUpdate (u := Frame.update f .full) (State.lt_of_inWindow hw)
    · exact h
  · split
    · next hw => exact h.decideUpdate (u := Frame.update f .delta) (State.lt_of_inWindow hw)
    · exact h
  · split
    · next hw => exact h.decideRequest (State.lt_of_inWindow (Bool.and_eq_true_iff.1 hw).1) _
    · exact h
  · exact h
  · exact h

theorem routeFrame (f : List Byte) (sent : Nat) : (s.routeFrame f sent).Contained := by
  unfold State.routeFrame
  split
  · exact h
  · split
    · exact h.strip f
    · split
      · exact h
      · exact (h.act f).of_holdings (State.holdings_enterFifo _ _ _)

/-! ## The Framer's builds -/

theorem buildProbe : s.buildProbe.Contained := by
  have hkeep : ∀ {t : State} (p : ProbeRecord) (f : List Byte), t.Contained →
      ({ t with probe := p }.handOver f).Contained :=
    fun _ f ht => (ht.handOver f).of_holdings rfl
  unfold State.buildProbe
  dsimp only
  split
  · exact hkeep _ _ h.loseProbe
  · exact hkeep _ _ h
  · exact hkeep _ _ h

theorem buildRequest (i : SlotNo) {u : SlotUse} (hu : u.line < 4096) : (s.buildRequest i u).Contained :=
  (h.transmit i hu).handOver _

theorem serveDue (i : SlotNo) : (s.serveDue i).Contained := by
  unfold State.serveDue
  split
  · exact h
  · next u hu =>
    split
    · exact h.buildRequest i (h.slots i u hu)
    · exact h.setBuild fun _ e => nomatch e
    · exact h.setBuild fun _ e => nomatch e
    · exact h.setBuild fun _ e => nomatch e
    · exact h

theorem serveSweep : s.serveSweep.Contained := by
  unfold State.serveSweep
  split
  · exact h.setBuild fun _ e => nomatch e
  · exact (h.listLine h.pointer).endSweepStep
  · exact h.endSweepStep

theorem choose : s.choose.Contained := by
  unfold State.choose
  split
  · exact h.buildProbe
  · split
    · exact h
    · split
      · exact h.serveDue _
      · split
        · exact h.setBuild fun _ e => nomatch e
        · split
          · next line i hline _ =>
            obtain ⟨e, he, rfl⟩ := Option.map_eq_some_iff.1 hline
            exact h.buildRequest i (h.repairList e (List.mem_of_find?_eq_some he))
          · split
            · next line _ hline _ =>
              refine h.setBuild fun l hl => ?_
              obtain rfl := Build.post.inj (Option.some.inj hl)
              exact h.postList line (List.mem_of_find?_eq_some hline)
            · split
              · exact h.serveSweep
              · exact h

theorem buildPost {line : Nat} (hl : line < 4096) : (s.buildPost line).Contained := by
  unfold State.buildPost
  dsimp only
  split
  · exact (h.checkFailure hl).abandonBuild.drainTest
  · split
    · next i _ _ => exact ((((h.transmit i hl).setRec hl _).unpost line).handOver _).drainTest
    · exact h.abandonBuild

theorem freeUnfit (i : SlotNo) {line : Nat} (hl : line < 4096) : (s.freeUnfit i line).Contained :=
  (h.freeFlight i hl _).abandonBuild.drainTest

theorem buildMendResend (i : SlotNo) {u : SlotUse} (hu : u.line < 4096) : (s.buildMendResend i u).Contained := by
  unfold State.buildMendResend
  dsimp only
  split
  · exact (h.checkFailure hu).freeUnfit i hu
  · split
    · exact (h.transmit i hu).handOver _
    · exact h.freeUnfit i hu

theorem buildReplacement (i : SlotNo) {u : SlotUse} (hu : u.line < 4096) : (s.buildReplacement i u).Contained := by
  unfold State.buildReplacement
  dsimp only
  split
  · exact (h.checkFailure hu).freeUnfit i hu
  · split
    · split
      · have ht := h.transmit i (u := { u with stamp := (s.lineRec u.line).stamp }) hu
        exact (((ht.setRec hu _).unpost _).handOver _).drainTest
      · exact h.freeUnfit i hu
    all_goals exact h.freeUnfit i hu

theorem buildAnswer {line : Nat} {rest : List Nat} (hq : ∀ l ∈ line :: rest, l < 4096) :
    (s.buildAnswer line rest).Contained := by
  have ht : { s with answerQueue := rest }.Contained :=
    { h with answerQueue := fun l hl => hq l (List.mem_cons_of_mem _ hl) }
  unfold State.buildAnswer
  dsimp only
  split
  · exact (ht.checkFailure (hq line List.mem_cons_self)).abandonBuild.drainTest
  · split
    · exact ht.handOver _
    · exact ht.abandonBuild

theorem fetchSweep {line : Nat} (hl : line < 4096) : (s.fetchSweep line).Contained := by
  unfold State.fetchSweep
  split
  · exact (h.checkFailure hl).abandonBuild.endSweepStep.drainTest
  · split
    · exact (h.handOver _).endSweepStep
    · exact (h.listLine hl).abandonBuild.endSweepStep
    · exact h.abandonBuild.endSweepStep

/-! ## The replica window -/

theorem refuseWrite (line : Nat) (reason : RefuseReason) : (s.refuseWrite line reason).Contained :=
  (h.give _).complete false none

theorem readWord (la : BitVec 15) : (s.readWord la).Contained := by
  have hf : ((s.checkFailure (lineOf la)).fail .read).Contained := (h.checkFailure (lineOf_lt la)).complete _ _
  unfold State.readWord
  dsimp only
  split
  · exact hf.drainTest
  · split
    · exact h.of_holdings rfl
    · exact h.of_holdings rfl

theorem mergeWrite (la : BitVec 15) (be : BitVec 4) (ld : Word) : (s.mergeWrite la be ld).Contained := by
  have hl := lineOf_lt la
  have hw := (h.writeLine hl (Mask.merge (enabledMask (wordOf la) be) 0 (s.lineBytes (lineOf la)) (enabledBytes be ld))
    (by simp [Mask.merge_length])).setRec hl
    (writtenRec (s.lineRec (lineOf la)) (enabledMask (wordOf la) be) s.config.stationNumber).1
  refine (hw.setPostList fun l hmem => ?_).complete true none
  split at hmem
  · obtain hmem | hmem := List.mem_append.1 hmem
    · exact h.postList l hmem
    · rw [List.mem_singleton.1 hmem]; exact hl
  · exact h.postList l hmem

theorem writeWord (la : BitVec 15) (be : BitVec 4) (ld : Word) : (s.writeWord la be ld).Contained := by
  unfold State.writeWord
  dsimp only
  split
  · split
    · exact h.refuseWrite _ _
    · exact ((h.checkFailure (lineOf_lt la)).refuseWrite _ _).drainTest
  · exact h.mergeWrite la be ld

/-! ## RESET, the clearing pass and the deadlines -/

omit h in
theorem reset : State.reset.Contained where
  memWf := Memory.wf_nil
  codesWf := ⟨List.Pairwise.nil, fun _ he => absurd he List.not_mem_nil⟩
  linesWf := ⟨List.Pairwise.nil, fun _ he => absurd he List.not_mem_nil⟩
  mem _ hc := absurd hc List.not_mem_nil
  codes _ hc := absurd hc List.not_mem_nil
  lines _ hc := absurd hc List.not_mem_nil
  applyQueue _ he := absurd he List.not_mem_nil
  postList _ hl := absurd hl List.not_mem_nil
  repairList _ he := absurd he List.not_mem_nil
  answerQueue _ hl := absurd hl List.not_mem_nil
  slots i u hu := by rw [State.slot_reset] at hu; cases hu
  build _ e := nomatch e
  pointer := by decide
  queried := by decide
  phase n e := by obtain rfl := ResetPhase.clearing.inj e; decide

omit h in
theorem assertReset : s.assertReset.Contained :=
  { reset with phase := fun _ e => nomatch e }

theorem setPhase {p : ResetPhase} (hp : ∀ n, p = .clearing n → n < 4096) : ({ s with phase := p } : State).Contained :=
  { h with phase := hp }

theorem releaseReset : s.releaseReset.Contained := by
  unfold State.releaseReset
  split
  · exact h.setPhase fun n e => by obtain rfl := ResetPhase.clearing.inj e; decide
  · exact h

theorem clearLine : s.clearLine.Contained := by
  unfold State.clearLine
  split
  · next line hp =>
    have ht := h.writeLine (h.phase line hp) (List.replicate 32 0) (by simp)
    dsimp only
    split
    · next hlt => exact ht.setPhase fun n e => by obtain rfl := ResetPhase.clearing.inj e; omega
    · exact (ht.setPhase (p := .ended) fun _ e => nomatch e).of_holdings (State.holdings_resumeCleared _)
  all_goals exact h

theorem updateDeadline (i : SlotNo) {u : SlotUse} (hu : u.line < 4096) : (s.updateDeadline i u).Contained := by
  have hfree := h.freeFlight i hu false
  unfold State.updateDeadline
  dsimp only
  split
  · split
    · exact hfree.drainTest
    · split
      · exact h.makeDue i hu _ _
      · exact (hfree.give _).drainTest
  · split
    · exact hfree.drainTest
    · exact h.makeDue i hu _ _
  all_goals exact (h.freeSlot i).drainTest

/-! ## The step -/

theorem setWatched {line : Nat} (hl : line < 4096) (watched : Bool) : (s.setWatched line watched).Contained :=
  h.setRec hl _

theorem setQuery {q : QueryRecord} (hq : q.line < 4096) : ({ s with query := q } : State).Contained :=
  { h with queried := hq }

theorem answer (code : BitVec 8) (arg : BitVec 16) (result : CommandResult) : (s.answer code arg result).Contained :=
  h.of_holdings rfl

/-- The line a granted access has struck, with the hold bound. -/
theorem strikeAndBind (a : Access) (u : Option Upset) : ((s.strike (lineOf a.la) u).bindHold a).Contained :=
  (h.strike (lineOf_lt a.la) u).of_holdings (State.holdings_bindHold _ a)

/-- Every command keeps the invariant. -/
theorem exec_meets (i : Instr) : Result.Meets (exec i s) State.Contained := by
  by_cases hi : leavesHoldings i = true
  · exact fun t ht => h.of_holdings (exec_leavesHoldings hi s t ht)
  cases i
  case reset => exact Result.meets_next.2 assertReset
  case resetRelease => exact Result.meets_next.2 h.releaseReset
  case clearingPassClaim => exact Result.meets_next.2 h.clearLine
  case readClaimGranted u =>
    exact execReadClaimGranted_meets h u (fun _ _ => h.of_holdings rfl) fun a _ => (h.strikeAndBind a u).readWord a.la
  case writeClaimGranted u =>
    exact execWriteClaimGranted_meets h u (fun _ _ => h.of_holdings rfl)
      fun a be ld _ => (h.strikeAndBind a u).writeWord a.la be ld
  case leave arg =>
    exact execLeave_meets h arg (h.answer _ _ _)
      (((h.depart .offline).of_holdings (State.holdings_endDrain _)).answer _ _ _)
  case watch line =>
    exact execWatch_meets h line (h.answer _ _ _) fun hw => (h.setWatched (State.lt_of_inWindow hw) true).answer _ _ _
  case unwatch line =>
    exact execUnwatch_meets h line (h.answer _ _ _) fun hw => (h.setWatched (State.lt_of_inWindow hw) false).answer _ _ _
  case query line =>
    exact execQuery_meets h line (h.answer _ _ _)
      fun hw => (h.setQuery (q := (s.lineRec line.toNat).query line.toNat) (State.lt_of_inWindow hw)).answer _ _ _
  case frameReceivedWhole bytes sent =>
    have ht : { s with receiving := false }.Contained := h.of_holdings rfl
    exact execFrameReceivedWhole_meets h bytes sent ht (ht.routeFrame bytes sent)
  case carrierLost =>
    have ht : { s with carrier := false, receiving := false }.Contained := h.of_holdings rfl
    exact execCarrierLost_meets h ht (ht.enterIsolated .carrier)
  case insertionComplete =>
    have ht : { s with sending := .idle, place := none }.Contained := h.of_holdings rfl
    exact execInsertionComplete_meets h fun f _ => ht.reportInsertion f
  case framerChoice => exact execFramerChoice_meets h h.choose
  case postBuild u =>
    exact execPostBuild_meets h u fun line hb => (h.strike (h.build line hb.1) u).buildPost (h.build line hb.1)
  case mendResendBuild u =>
    exact execMendResendBuild_meets h u h.abandonBuild
      fun i v _ hv => (h.strike (h.slots i v hv) u).buildMendResend i (h.slots i v hv)
  case replacementBuild u =>
    exact execReplacementBuild_meets h u h.abandonBuild
      fun i v _ hv => (h.strike (h.slots i v hv) u).buildReplacement i (h.slots i v hv)
  case answerBuild u =>
    refine execAnswerBuild_meets h u h.abandonBuild fun line rest _ hq => ?_
    have hl : ∀ l ∈ line :: rest, l < 4096 := fun l hm => h.answerQueue l (hq ▸ hm)
    exact (h.strike (hl line List.mem_cons_self) u).buildAnswer hl
  case sweepRefreshFetch u =>
    exact execSweepRefreshFetch_meets h u fun _ => (h.strike h.pointer u).fetchSweep h.pointer
  case applyFull =>
    exact execApplyFull_meets h fun e rest hq _ _ =>
      (h.applyFullEntry hq).of_holdings (State.holdings_resumeApplied _)
  case applyDelta u =>
    exact execApplyDelta_meets h u fun e rest hq _ _ =>
      (h.applyDeltaEntry hq u).of_holdings (State.holdings_resumeApplied _)
  case updateDeadline i =>
    refine execUpdateDeadline_meets h i fun u d hu _ _ => ?_
    have ht : (s.reach d).Contained := h.of_holdings rfl
    exact ht.updateDeadline i (h.slots i u hu)
  case repairDeadline i =>
    refine execRepairDeadline_meets h i fun u d hu _ _ => ?_
    have ht : (s.reach d).Contained := h.of_holdings rfl
    exact ht.repairUnanswered i (h.slots i u hu)
  case probeLost =>
    refine execProbeLost_meets h fun d => ?_
    have ht : (s.reach d).Contained := h.of_holdings rfl
    exact ht.loseProbe
  all_goals exact absurd rfl hi

end State.Contained

/-- Settles O55: the tick changes neither bytes, codes, records nor what names a line, and every command keeps the
invariant. -/
theorem stepsKeepTheReplicaCanonical : Obligations.StepsKeepTheReplicaCanonical := by
  unfold Obligations.StepsKeepTheReplicaCanonical
  intro s t h hstep
  rw [← State.contained_iff] at h ⊢
  exact step_meets (fun _ hs => hs.of_holdings rfl) (fun _ _ hs => hs.of_holdings rfl) (fun i _ hs => hs.exec_meets i) h
    t hstep

end Sys2Proof.Machine

namespace Sys2Proof.Machine

/-! ## The invariant, line by line -/

/-- What the Apply Queue, the Repair List and the Post List hold for a line whose record is `r` (R10, R27, R34, R35, R43,
R55, R103). -/
structure LineRecord.Follows (queue : List ApplyEntry) (repairs : List RepairEntry) (posts : List Nat) (l : Nat)
    (r : LineRecord) : Prop where
  applyMark : r.applyPending = queue.any fun e => e.line == l
  listedMark : r.listed = repairs.any fun e => e.line == l
  listedUntrusted : r.listed = true → r.content ≠ .valid
  posted : l ∈ posts ↔ r.pending.post.isSome = true
  postTrusted : r.pending.post.isSome = true → r.content = .valid ∧ r.applyPending = false
  behind : ∀ e ∈ queue, e.line = l → r.stamp.atLeast e.stamp = true
  healsFlight : ∀ e ∈ queue, e.line = l → ∀ f, r.pending = .inflight f → f.superseded = false →
    e.kind = .full ∧ e.stamp = r.stamp ∧ r.content ≠ .valid

/-- No two FULL entries for one line carry one stamp (R34). -/
abbrev FullsDiffer (queue : List ApplyEntry) : Prop :=
  queue.Pairwise fun a b => a.kind = .full → b.kind = .full → a.line = b.line → a.stamp ≠ b.stamp

/-- Every line's record follows the lists, and none of the lists says a thing twice. -/
structure State.Consistent (s : State) : Prop where
  linesWf : Sparse.Wf LineRecord.reset s.lines
  line : ∀ l, (s.lineRec l).Follows s.applyQueue s.repairList s.postList l
  repairNodup : (s.repairList.map RepairEntry.line).Nodup
  postNodup : s.postList.Nodup
  fullsDiffer : FullsDiffer s.applyQueue

theorem State.consistent_iff (s : State) : s.Consistent ↔ s.ListsAgree ∧ s.PostsTrusted ∧ s.EntriesFollowStamps := by
  constructor
  · intro h
    exact ⟨⟨h.linesWf, fun l => (h.line l).applyMark,
      ⟨fun l => (h.line l).listedMark, h.repairNodup, fun l => (h.line l).listedUntrusted⟩,
      fun l => (h.line l).posted, h.postNodup⟩, fun l => (h.line l).postTrusted,
      fun e he => (h.line e.line).behind e he rfl, h.fullsDiffer, fun e he => (h.line e.line).healsFlight e he rfl⟩
  · rintro ⟨⟨hwf, happly, ⟨hlisted, hrepairs, huntrusted⟩, hposted, hposts⟩, htrusted, hbehind, hfulls, hheals⟩
    refine ⟨hwf, fun l => ⟨happly l, hlisted l, huntrusted l, hposted l, htrusted l, ?_, ?_⟩, hrepairs, hposts, hfulls⟩
    · rintro e he rfl; exact hbehind e he
    · rintro e he rfl; exact hheals e he

section
variable {queue queue' : List ApplyEntry} {repairs repairs' : List RepairEntry} {posts posts' : List Nat} {l : Nat}
  {r : LineRecord}

/-- A record follows lists that hold the same for its line. -/
theorem LineRecord.Follows.congr_lists (h : r.Follows queue repairs posts l)
    (hq : ∀ e : ApplyEntry, e.line = l → (e ∈ queue' ↔ e ∈ queue))
    (hr : ∀ e : RepairEntry, e.line = l → (e ∈ repairs' ↔ e ∈ repairs)) (hp : l ∈ posts' ↔ l ∈ posts) :
    r.Follows queue' repairs' posts' l where
  applyMark := by
    rw [h.applyMark, Bool.eq_iff_iff]
    simp only [List.any_eq_true, beq_iff_eq]
    exact exists_congr fun e => and_congr_left fun he => (hq e he).symm
  listedMark := by
    rw [h.listedMark, Bool.eq_iff_iff]
    simp only [List.any_eq_true, beq_iff_eq]
    exact exists_congr fun e => and_congr_left fun he => (hr e he).symm
  listedUntrusted := h.listedUntrusted
  posted := hp.trans h.posted
  postTrusted := h.postTrusted
  behind e he hl := h.behind e ((hq e hl).1 he) hl
  healsFlight e he hl := h.healsFlight e ((hq e hl).1 he) hl

/-- Without apply pending nothing is queued for the line (R35). -/
theorem LineRecord.Follows.not_queued (h : r.Follows queue repairs posts l) (ha : r.applyPending = false)
    {e : ApplyEntry} (he : e ∈ queue) : e.line ≠ l := by
  intro hl
  have := h.applyMark
  rw [ha, eq_comm, List.any_eq_false] at this
  exact this e he (beq_iff_eq.2 hl)

/-- A line with an entry queued has no post (R10). -/
theorem LineRecord.Follows.no_post_of_queued (h : r.Follows queue repairs posts l) {e : ApplyEntry} (he : e ∈ queue)
    (hl : e.line = l) : r.pending.post.isSome = false := by
  cases hp : r.pending.post.isSome with
  | false => rfl
  | true => exact absurd hl (h.not_queued (h.postTrusted hp).2 he)

/-- The flight of a VALID line that is not superseded has nothing queued (R27, R43). -/
theorem LineRecord.Follows.not_pending_of_flight (h : r.Follows queue repairs posts l) {f : Flight}
    (hf : r.pending = .inflight f) (hs : f.superseded = false) (hv : r.content = .valid) : r.applyPending = false := by
  rw [h.applyMark, List.any_eq_false]
  intro e he hl
  exact (h.healsFlight e he (beq_iff_eq.1 hl) f hf hs).2.2 hv

/-- A line with a post has it on a VALID line with nothing queued (R10). -/
theorem LineRecord.Follows.of_post (h : r.Follows queue repairs posts l) {p : Post} (hp : r.pending.post = some p) :
    r.content = .valid ∧ r.applyPending = false :=
  h.postTrusted (by rw [hp]; rfl)

/-- The pending state may move where the post stays and no flight begins. -/
theorem LineRecord.Follows.setPending (h : r.Follows queue repairs posts l) {p : Pending}
    (hpost : p.post.isSome = r.pending.post.isSome) (hflight : ∀ f, p = .inflight f → r.pending = .inflight f) :
    ({ r with pending := p } : LineRecord).Follows queue repairs posts l where
  applyMark := h.applyMark
  listedMark := h.listedMark
  listedUntrusted := h.listedUntrusted
  posted := by rw [hpost]; exact h.posted
  postTrusted := by rw [hpost]; exact h.postTrusted
  behind := h.behind
  healsFlight e he hl f hf := h.healsFlight e he hl f (hflight f hf)

/-- With nothing queued for a VALID line, its stamp and pending state may take any value that the Post List follows. -/
theorem LineRecord.Follows.setUnqueued (h : r.Follows queue repairs posts l) (ha : r.applyPending = false)
    (hv : r.content = .valid) (stamp : Stamp) {p : Pending} (hp : l ∈ posts' ↔ p.post.isSome = true) :
    ({ r with stamp, pending := p } : LineRecord).Follows queue repairs posts' l where
  applyMark := h.applyMark
  listedMark := h.listedMark
  listedUntrusted := h.listedUntrusted
  posted := hp
  postTrusted _ := ⟨hv, ha⟩
  behind _ he hl := absurd hl (h.not_queued ha he)
  healsFlight _ he hl := absurd hl (h.not_queued ha he)

end

/-! ## A raised line's own work -/

/-- A raise leaves no post, and marks a flight superseded (R42 to R44). -/
theorem supersededPending_spec (p : Pending) :
    (supersededPending p).1.post.isSome = false
      ∧ ∀ f, (supersededPending p).1 = .inflight f → f.superseded = true := by
  cases p with
  | idle => exact ⟨rfl, fun _ e => nomatch e⟩
  | posted => exact ⟨rfl, fun _ e => nomatch e⟩
  | inflight => exact ⟨rfl, fun _ e => by cases e; rfl⟩
  | inflightPosted => exact ⟨rfl, fun _ e => by cases e; rfl⟩

/-! ## The line of a FULL at the current stamp -/

/-- What a FULL at the current stamp does to an untrusted line once its bytes are written: it turns VALID, its repair ends,
and the entry leaves the queue (R41, R116). -/
def State.turnValid (s : State) (e : ApplyEntry) (rest : List ApplyEntry) : State :=
  ((s.setRec e.line { s.lineRec e.line with content := .valid }).endRepair e.line).popApply e rest

section
variable (s : State) (e : ApplyEntry) (rest : List ApplyEntry)

@[simp] theorem State.turnValid_applyQueue : (s.turnValid e rest).applyQueue = rest := by
  simp [State.turnValid]

@[simp] theorem State.turnValid_postList : (s.turnValid e rest).postList = s.postList := by
  simp [State.turnValid, State.endRepair]

@[simp] theorem State.turnValid_repairList :
    (s.turnValid e rest).repairList = s.repairList.filter fun x => x.line != e.line := by
  simp [State.turnValid, State.endRepair]

theorem State.lineRec_turnValid (l : Nat) :
    (s.turnValid e rest).lineRec l =
      if l = e.line then
        { s.lineRec e.line with
          content := .valid, listed := false, applyPending := rest.any fun x => x.line == e.line }
      else s.lineRec l := by
  have hrepair : ∀ (t : State) (k : Nat), (t.endRepair e.line).lineRec k = (t.unlistLine e.line).lineRec k :=
    fun _ _ => rfl
  rw [State.turnValid, State.lineRec_popApply]
  simp only [hrepair, State.lineRec_unlistLine, State.lineRec_setRec, if_true]
  by_cases hl : l = e.line
  · simp only [hl, if_true]
  · simp only [hl, if_false]

theorem State.wf_turnValid (h : Sparse.Wf LineRecord.reset s.lines) :
    Sparse.Wf LineRecord.reset (s.turnValid e rest).lines := by
  have hset : ∀ (t : State) (r : LineRecord), Sparse.Wf LineRecord.reset t.lines →
      Sparse.Wf LineRecord.reset (t.setRec e.line r).lines := fun _ r ht => ht.set _ e.line r
  have hpop : ∀ t : State, Sparse.Wf LineRecord.reset t.lines → Sparse.Wf LineRecord.reset (t.popApply e rest).lines :=
    fun _ ht => ht.set _ e.line _
  have hrepair : ∀ t : State, Sparse.Wf LineRecord.reset t.lines → Sparse.Wf LineRecord.reset (t.endRepair e.line).lines :=
    fun _ ht => ht.set _ e.line _
  exact hpop _ (hrepair _ (hset _ _ h))

end

namespace State.Consistent

/-- The invariant looks at the holdings alone. -/
theorem of_holdings {s t : State} (h : s.Consistent) (e : t.holdings = s.holdings) : t.Consistent := by
  have hlines : t.lines = s.lines := congrArg Holdings.lines e
  have hqueue : t.applyQueue = s.applyQueue := congrArg Holdings.applyQueue e
  have hposts : t.postList = s.postList := congrArg Holdings.postList e
  have hrepairs : t.repairList = s.repairList := congrArg Holdings.repairList e
  have hrec : ∀ l, t.lineRec l = s.lineRec l := State.lineRec_congr hlines
  exact {
    linesWf := hlines ▸ h.linesWf
    line := fun l => by
      rw [hrec, hqueue, hrepairs, hposts]
      exact h.line l
    repairNodup := hrepairs ▸ h.repairNodup
    postNodup := hposts ▸ h.postNodup
    fullsDiffer := hqueue ▸ h.fullsDiffer }

/-- A step that moves one line keeps the invariant when the lists change for that line alone and its record follows
them. -/
theorem of_line {s t : State} (h : s.Consistent) (line : Nat) (hwf : Sparse.Wf LineRecord.reset t.lines)
    (hrec : ∀ l, l ≠ line → t.lineRec l = s.lineRec l)
    (hq : ∀ e : ApplyEntry, e.line ≠ line → (e ∈ t.applyQueue ↔ e ∈ s.applyQueue))
    (hr : ∀ e : RepairEntry, e.line ≠ line → (e ∈ t.repairList ↔ e ∈ s.repairList))
    (hp : ∀ l, l ≠ line → (l ∈ t.postList ↔ l ∈ s.postList))
    (hline : (t.lineRec line).Follows t.applyQueue t.repairList t.postList line)
    (hrepairs : (t.repairList.map RepairEntry.line).Nodup) (hposts : t.postList.Nodup)
    (hfulls : FullsDiffer t.applyQueue) : t.Consistent := by
  refine ⟨hwf, fun l => ?_, hrepairs, hposts, hfulls⟩
  by_cases hl : l = line
  · rw [hl]; exact hline
  · rw [hrec l hl]
    exact (h.line l).congr_lists (fun _ he => hq _ (he ▸ hl)) (fun _ he => hr _ (he ▸ hl)) (hp l hl)

variable {s : State} (h : s.Consistent)
include h

/-! ## One line's record and lists -/

theorem setRec {line : Nat} {r : LineRecord} (hr : r.Follows s.applyQueue s.repairList s.postList line) :
    (s.setRec line r).Consistent :=
  h.of_line line (h.linesWf.set _ _ _) (fun _ hl => State.lineRec_setRec_other s r hl) (fun _ _ => Iff.rfl)
    (fun _ _ => Iff.rfl) (fun _ _ => Iff.rfl) (by rw [State.lineRec_setRec_same]; exact hr) h.repairNodup h.postNodup
    h.fullsDiffer

/-- A line's post ends, in a record that follows the lists but for the Post List. -/
theorem endPost {line : Nat} {r : LineRecord}
    (hr : r.Follows s.applyQueue s.repairList (s.postList.filter (· != line)) line) :
    ((s.setRec line r).unpost line).Consistent := by
  have hrec : ∀ l, ((s.setRec line r).unpost line).lineRec l = (s.setRec line r).lineRec l := fun _ => rfl
  refine h.of_line line (h.linesWf.set _ _ _) (fun l hl => ?_) (fun _ _ => Iff.rfl) (fun _ _ => Iff.rfl)
    (fun l hl => ?_) ?_ h.repairNodup (h.postNodup.filter _) h.fullsDiffer
  · rw [hrec, State.lineRec_setRec_other s r hl]
  · simp [State.unpost, hl]
  · rw [hrec, State.lineRec_setRec_same]; exact hr

/-- A post begins on a VALID line that has none and nothing queued (R10, R51, R52). -/
theorem beginPost {line : Nat} (hnone : (s.lineRec line).pending.post.isSome = false)
    (hv : (s.lineRec line).content = .valid) (ha : (s.lineRec line).applyPending = false) (stamp : Stamp) {p : Pending}
    (hp : p.post.isSome = true) :
    ({ s.setRec line { s.lineRec line with stamp, pending := p } with
        postList := s.postList ++ [line] } : State).Consistent := by
  have hnot : line ∉ s.postList := fun hmem => by
    rw [(h.line line).posted, hnone] at hmem
    cases hmem
  refine h.of_line line (h.linesWf.set _ _ _) (fun l hl => State.lineRec_setRec_other s _ hl) (fun _ _ => Iff.rfl)
    (fun _ _ => Iff.rfl) (fun l hl => ?_) ?_ h.repairNodup ?_ h.fullsDiffer
  · simp [hl]
  · have hf := (h.line line).setUnqueued (posts' := s.postList ++ [line]) ha hv stamp (p := p) (by simp [hp])
    have hrec := State.lineRec_setRec_same s line { s.lineRec line with stamp, pending := p }
    exact hrec.symm ▸ hf
  · exact List.nodup_append.2 ⟨h.postNodup, by simp, by
      intro a hmem b hb
      rw [List.mem_singleton.1 hb]
      rintro rfl
      exact hnot hmem⟩

/-- An untrusted line may be listed (R46, R98, R103). -/
theorem listLine {line : Nat} (hc : (s.lineRec line).content ≠ .valid) : (s.listLine line).Consistent := by
  by_cases hno : (s.lineRec line).listed = true ∨ 32 ≤ s.repairList.length
  · rw [State.listLine_of_not s line hno]; exact h
  · obtain ⟨hunlisted, hroom⟩ := not_or.1 hno
    rw [Bool.not_eq_true] at hunlisted
    have hfresh : ∀ e ∈ s.repairList, e.line ≠ line := by
      intro e he hl
      have := (h.line line).listedMark
      rw [hunlisted, eq_comm, List.any_eq_false] at this
      exact this e he (beq_iff_eq.2 hl)
    rw [State.listLine_of_room s line hunlisted (by omega)]
    refine h.of_line line (h.linesWf.set _ _ _) (fun l hl => State.lineRec_setRec_other s _ hl) (fun _ _ => Iff.rfl)
      (fun e he => ?_) (fun _ _ => Iff.rfl) ?_ ?_ h.postNodup h.fullsDiffer
    · simp only [List.mem_append, List.mem_singleton, or_iff_left_iff_imp]
      rintro rfl
      exact absurd rfl he
    · have hf : ({ s.lineRec line with listed := true } : LineRecord).Follows s.applyQueue
          (s.repairList ++ [⟨line, s.now⟩]) s.postList line :=
        { h.line line with
          listedMark := by simp
          listedUntrusted := fun _ => hc }
      have hrec := State.lineRec_setRec_same s line { s.lineRec line with listed := true }
      exact hrec.symm ▸ hf
    · simp only [List.map_append, List.map_cons, List.map_nil]
      refine List.nodup_append.2 ⟨h.repairNodup, by simp, ?_⟩
      intro a ha b hb
      obtain ⟨e, he, rfl⟩ := List.mem_map.1 ha
      rw [List.mem_singleton.1 hb]
      exact hfresh e he

/-- A line leaves the Repair List with its listed mark (R103). -/
theorem unlistLine (line : Nat) : (s.unlistLine line).Consistent := by
  refine h.of_line line (h.linesWf.set _ _ _) (fun l hl => State.lineRec_setRec_other s _ hl) (fun _ _ => Iff.rfl)
    (fun e he => ?_) (fun _ _ => Iff.rfl) ?_ (h.repairNodup.sublist (List.filter_sublist.map _)) h.postNodup h.fullsDiffer
  · rw [State.mem_unlistLine]
    exact and_iff_left he
  · have hf : ({ s.lineRec line with listed := false } : LineRecord).Follows s.applyQueue (s.unlistLine line).repairList
        s.postList line :=
      { h.line line with
        listedMark := by
          rw [eq_comm, List.any_eq_false]
          intro e he hl
          exact ((State.mem_unlistLine s line e).1 he).2 (beq_iff_eq.1 hl)
        listedUntrusted := fun hl => nomatch hl }
    rw [State.lineRec_unlistLine, if_pos rfl]
    exact hf

/-- The Repair List is emptied with every listed mark (R16, R118). -/
theorem unlistAll : s.unlistAll.Consistent where
  linesWf := State.wf_unlistAll h.linesWf
  line l := by
    rw [State.lineRec_unlistAll s h.linesWf]
    exact { h.line l with
      listedMark := rfl
      listedUntrusted := fun hl => nomatch hl }
  repairNodup := List.nodup_nil
  postNodup := h.postNodup
  fullsDiffer := h.fullsDiffer

/-! ## Flights, watches and check failures -/

/-- A record changes its pending state where the post stays and no flight begins. -/
theorem setPending (line : Nat) {p : Pending} (hpost : p.post.isSome = (s.lineRec line).pending.post.isSome)
    (hflight : ∀ f, p = .inflight f → (s.lineRec line).pending = .inflight f) :
    (s.setRec line { s.lineRec line with pending := p }).Consistent :=
  h.setRec ((h.line line).setPending hpost hflight)

theorem setWatched (line : Nat) (watched : Bool) : (s.setWatched line watched).Consistent :=
  h.setRec { h.line line with }

/-- The post of a line with nothing queued ends, with any stamp (R67, R69, R99, R100). -/
theorem endTrustedPost {line : Nat} (hpost : (s.lineRec line).pending.post.isSome = true) (stamp : Stamp) {p : Pending}
    (hp : p.post.isSome = false) :
    ((s.setRec line { s.lineRec line with stamp, pending := p }).unpost line).Consistent := by
  obtain ⟨hv, ha⟩ := (h.line line).postTrusted hpost
  exact h.endPost ((h.line line).setUnqueued ha hv stamp (by simp [hp]))

theorem give (n : Notice) : (s.give n).Consistent := h.of_holdings rfl

theorem complete (ok : Bool) (ld : Option Word) : (s.complete ok ld).Consistent := h.of_holdings rfl

theorem drainTest : s.drainTest.Consistent := h.of_holdings s.holdings_drainTest

theorem loseWaitingPost (line : Nat) : (s.loseWaitingPost line).Consistent := by
  unfold State.loseWaitingPost
  dsimp only
  split
  · next p hp => exact (h.endTrustedPost (by rw [hp]; rfl) p.base rfl).give _
  · next f p hp => exact (h.endTrustedPost (by rw [hp]; rfl) p.base rfl).give _
  all_goals exact h

omit h in
/-- A withdrawn post is gone (R99, R100). -/
theorem post_loseWaitingPost (s : State) (line : Nat) :
    ((s.loseWaitingPost line).lineRec line).pending.post.isSome = false := by
  rw [State.loseWaitingPost_rec]
  cases (s.lineRec line).pending <;> rfl

/-- A line with no post may turn SUSPECT (R97). -/
theorem setSuspect {line : Nat} (hnone : (s.lineRec line).pending.post.isSome = false) :
    (s.setRec line { s.lineRec line with content := .suspect }).Consistent := by
  have hl := h.line line
  exact h.setRec { hl with
    listedUntrusted := fun _ => by simp
    postTrusted := fun hp => by rw [hnone] at hp; cases hp
    healsFlight := fun e he hline f hf hs => by
      obtain ⟨hkind, hstamp, -⟩ := hl.healsFlight e he hline f hf hs
      exact ⟨hkind, hstamp, by simp⟩ }

theorem checkFailure (line : Nat) : (s.checkFailure line).Consistent :=
  ((h.loseWaitingPost line).setSuspect (post_loseWaitingPost s line)).listLine (by simp)

theorem endFlight (i : SlotNo) (line : Nat) (mustFull : Bool) : (s.endFlight i line mustFull).Consistent := by
  unfold State.endFlight
  dsimp only
  split
  · next f hf =>
    split
    · exact h.setPending line (by rw [hf]; rfl) fun _ e => nomatch e
    · exact h
  · next f p hf =>
    split
    · exact h.setPending line (by rw [hf]; rfl) fun _ e => nomatch e
    · exact h
  all_goals exact h

/-- A slot is freed and its line's flight ends. -/
theorem freeFlight (i : SlotNo) (line : Nat) (mustFull : Bool) : ((s.freeSlot i).endFlight i line mustFull).Consistent :=
  endFlight (s := s.freeSlot i) { h with } i line mustFull

theorem makeDue (i : SlotNo) (u : SlotUse) (kind : TxKind) (n : Nat) : (s.makeDue i u kind n).Consistent := { h with }

theorem abandonLine (i : SlotNo) (line : Nat) : (s.abandonLine i line).Consistent := by
  unfold State.abandonLine
  dsimp only
  split
  · next f hf =>
    split
    · split
      · exact h.setPending line (by rw [hf]; rfl) fun _ e => nomatch e
      · next hkeep =>
        simp only [Bool.or_eq_true, bne_iff_ne, ne_eq, not_or, Classical.not_not, Bool.not_eq_true] at hkeep
        obtain ⟨hs, hv⟩ := hkeep
        exact h.beginPost (by rw [hf]; rfl) hv ((h.line line).not_pending_of_flight hf hs hv) _ rfl
    · exact h
  · next f p hf =>
    split
    · exact h.setPending line (by rw [hf]; rfl) fun _ e => nomatch e
    · exact h
  all_goals exact h

/-! ## The Apply Unit -/

/-- The head entry leaves the queue with its mark (R35). -/
theorem popApply {e : ApplyEntry} {rest : List ApplyEntry} (hq : s.applyQueue = e :: rest) :
    (s.popApply e rest).Consistent := by
  have hl := h.line e.line
  have hmem : ∀ x ∈ rest, x ∈ s.applyQueue := fun x hx => by rw [hq]; exact List.mem_cons_of_mem _ hx
  have hnone := hl.no_post_of_queued (e := e) (by simp [hq]) rfl
  have hfulls := h.fullsDiffer
  rw [hq] at hfulls
  refine h.of_line e.line (h.linesWf.set _ _ _) (fun l hne => ?_) (fun x hx => ?_) (fun _ _ => Iff.rfl)
    (fun _ _ => Iff.rfl) ?_ h.repairNodup h.postNodup (List.pairwise_cons.1 hfulls).2
  · rw [State.lineRec_popApply, if_neg hne]
  · have hne : x ≠ e := fun heq => hx (by rw [heq])
    show x ∈ rest ↔ _
    simp [hq, hne]
  · rw [State.lineRec_popApply, if_pos rfl]
    exact { hl with
      applyMark := rfl
      postTrusted := fun hp => by rw [hnone] at hp; cases hp
      behind := fun x hx => hl.behind x (hmem x hx)
      healsFlight := fun x hx => hl.healsFlight x (hmem x hx) }

theorem giveApplied (e : ApplyEntry) : (s.giveApplied e).Consistent := h.of_holdings (s.holdings_giveApplied e)

theorem writeLine (line : Nat) (bytes : List Byte) : (s.writeLine line bytes).Consistent := { h with }

theorem strike (line : Nat) (u : Option Upset) : (s.strike line u).Consistent := by
  cases u with
  | none => exact h
  | some u => exact { h with }

/-- A FULL at the current stamp turns its line VALID and ends its repair: no heal is left queued at that stamp (R34,
R41). -/
theorem turnValid {e : ApplyEntry} {rest : List ApplyEntry} (hq : s.applyQueue = e :: rest) (hkind : e.kind = .full)
    (hstamp : (s.lineRec e.line).stamp = e.stamp) : (s.turnValid e rest).Consistent := by
  have hl := h.line e.line
  have hmem : ∀ x ∈ rest, x ∈ s.applyQueue := fun x hx => by rw [hq]; exact List.mem_cons_of_mem _ hx
  have hnone := hl.no_post_of_queued (e := e) (by simp [hq]) rfl
  have hfulls := h.fullsDiffer
  rw [hq, FullsDiffer, List.pairwise_cons] at hfulls
  refine h.of_line e.line (s.wf_turnValid e rest h.linesWf) (fun l hne => ?_) ?_ ?_ ?_ ?_ ?_ ?_ ?_
  · rw [State.lineRec_turnValid, if_neg hne]
  · intro x hx
    have hne : x ≠ e := fun heq => hx (by rw [heq])
    simp [hq, hne]
  · intro x hx
    simp [hx]
  · intro l _
    rw [State.turnValid_postList]
  · rw [State.lineRec_turnValid, if_pos rfl, State.turnValid_applyQueue, State.turnValid_repairList,
      State.turnValid_postList]
    exact {
      applyMark := rfl
      listedMark := by simp
      listedUntrusted := fun hlisted => nomatch hlisted
      posted := hl.posted
      postTrusted := fun hp => by rw [hnone] at hp; cases hp
      behind := fun x hx => hl.behind x (hmem x hx)
      healsFlight := fun x hx hxl f hf hs => by
        obtain ⟨hxkind, hxstamp, -⟩ := hl.healsFlight x (hmem x hx) hxl f hf hs
        exact absurd (hstamp.symm.trans hxstamp.symm) (hfulls.1 x hx hkind hxkind hxl.symm) }
  · rw [State.turnValid_repairList]
    exact h.repairNodup.sublist (List.filter_sublist.map _)
  · rw [State.turnValid_postList]
    exact h.postNodup
  · rw [State.turnValid_applyQueue]
    exact hfulls.2

theorem applyFullEntry {e : ApplyEntry} {rest : List ApplyEntry} (hq : s.applyQueue = e :: rest) (hkind : e.kind = .full) :
    (s.applyFullEntry e rest).Consistent := by
  have hw := h.writeLine e.line (Mask.merge Mask.all 0 (s.lineBytes e.line) e.data)
  unfold State.applyFullEntry
  generalize ht : s.writeLine e.line (Mask.merge Mask.all 0 (s.lineBytes e.line) e.data) = t at hw ⊢
  have hqt : t.applyQueue = e :: rest := by rw [← ht]; exact hq
  dsimp only
  split
  · next hstamp =>
    split
    · next hv =>
      have hsame : ({ t.lineRec e.line with content := .valid } : LineRecord) = t.lineRec e.line := by rw [← hv]
      rw [hsame]
      exact ((hw.setRec (hw.line e.line)).popApply hqt).giveApplied e
    · exact (hw.turnValid hqt hkind hstamp).giveApplied e
  · exact (hw.popApply hqt).giveApplied e

theorem applyDeltaEntry {e : ApplyEntry} {rest : List ApplyEntry} (hq : s.applyQueue = e :: rest) (u : Option Upset) :
    (s.applyDeltaEntry e rest u).Consistent := by
  have hs := h.strike e.line u
  have hqs : (s.strike e.line u).applyQueue = e :: rest := by simp [hq]
  unfold State.applyDeltaEntry
  generalize s.strike e.line u = t at hs hqs ⊢
  dsimp only
  split
  · exact h.popApply hq
  · split
    · exact ((hs.checkFailure e.line).popApply (by simp [hqs])).drainTest
    · exact ((hs.writeLine e.line _).popApply (e := e) (rest := rest) hqs).giveApplied e

/-! ## Changes of station state -/

theorem abandonSlot (i : SlotNo) : (s.abandonSlot i).Consistent := by
  have hf : (s.freeSlot i).Consistent := { h with }
  unfold State.abandonSlot
  split
  · exact h
  · split
    · exact hf.abandonLine i _
    · exact hf

theorem abandonSlots : s.abandonSlots.Consistent :=
  List.foldlRecOn allSlots State.abandonSlot h fun _ ht i _ => ht.abandonSlot i

theorem enterIsolated (detail : RingDownDetail) : (s.enterIsolated detail).Consistent := by
  have ha := h.abandonSlots
  unfold State.enterIsolated
  generalize s.abandonSlots = t at ha ⊢
  have hw := ha.of_holdings (t.holdings_withdraw fun f => Frame.kind f != .probe)
  dsimp only
  apply drainTest
  split
  · exact { hw with }
  · exact { hw with }

theorem depart (target : StationState) : (s.depart target).Consistent := by
  have ha := h.abandonSlots
  unfold State.depart
  generalize s.abandonSlots = t at ha ⊢
  exact { (ha.of_holdings t.holdings_leaveRing).unlistAll with }

theorem enterFault : s.enterFault.Consistent := ((h.depart .fault).give _).of_holdings (State.holdings_endDrain _)

theorem loseProbe : s.loseProbe.Consistent := by
  have ht : { s with probe := { s.probe with outstanding := none, losses := min 3 (s.probe.losses + 1) } }.Consistent :=
    h.of_holdings rfl
  unfold State.loseProbe
  dsimp only
  split
  · exact ht.enterIsolated .probes
  · exact ht

/-! ## Own insertions and returns -/

theorem reportInsertion (f : List Byte) : (s.reportInsertion f).Consistent := by
  have hslot : ∀ i g, (s.reportSlot i g).Consistent := by
    intro i g
    unfold State.reportSlot
    dsimp only
    split
    · exact h
    · split
      · exact { h with }
      · exact h
  unfold State.reportInsertion
  split
  · exact h.of_holdings (s.holdings_reportProbe _)
  · split
    · exact h
    · exact hslot _ _
  · split
    · exact h
    · exact hslot _ _
  · exact hslot _ _
  · exact h

theorem updateReturn (i : SlotNo) (u : SlotUse) (missed : Bool) : (s.updateReturn i u missed).Consistent := by
  have hfree := h.freeFlight i u.line
  have hslot : (s.freeSlot i).Consistent := { h with }
  have hconfirm : ∀ r : LineRecord,
      (if r.watched then ((s.freeSlot i).endFlight i u.line false).give (.confirmed u.line)
        else (s.freeSlot i).endFlight i u.line false).Consistent := by
    intro r
    split
    · exact (hfree false).give _
    · exact hfree false
  unfold State.updateReturn
  dsimp only
  split
  · split
    · exact (hfree false).drainTest
    · split
      · exact (hconfirm _).drainTest
      · split
        · exact (hfree false).drainTest
        · split
          · exact h.makeDue i u _ _
          · exact ((hfree false).give _).drainTest
  · split
    · exact (hfree false).drainTest
    · split
      · exact (hconfirm _).drainTest
      · exact (hfree true).drainTest
  · exact hslot.drainTest
  · exact hslot.drainTest

theorem repairUnanswered (i : SlotNo) (u : SlotUse) : (s.repairUnanswered i u).Consistent := by
  have hslot : (s.freeSlot i).Consistent := { h with }
  unfold State.repairUnanswered
  split
  · exact h.makeDue i u _ _
  · exact (hslot.unlistLine u.line).give _

theorem returnFrame (f : List Byte) (p : Purpose) : (s.returnFrame f p).Consistent := by
  unfold State.returnFrame
  dsimp only
  split
  · exact h
  · split
    · split
      · exact h.updateReturn _ _ _
      · split
        · exact h
        · exact h.repairUnanswered _ _
    · exact h

theorem strip (f : List Byte) : (s.strip f).Consistent := by
  unfold State.strip
  split
  · unfold State.stripProbe
    split
    · exact h.enterFault
    · split
      · exact h.of_holdings (s.holdings_probeReturns _)
      · exact h
  · split
    · exact h
    · exact h.returnFrame f _
  · split
    · exact h
    · exact h.returnFrame f _
  · exact h.returnFrame f _
  · exact h

/-! ## The decisions on a peer's frame -/

/-! ## The decisions on a peer's frame -/

/-- A raise keeps the invariant where a listed line does not turn VALID by it (R29 to R31, R42 to R44). -/
theorem raiseRec {u : Update} (hnew : u.stamp.newer (s.lineRec u.line).stamp = true) {content : Content}
    (hc : (s.lineRec u.line).listed = true → content ≠ .valid) : (s.raiseRec u content).Consistent := by
  have hl := h.line u.line
  obtain ⟨hnone, hsuperseded⟩ := supersededPending_spec (s.lineRec u.line).pending
  exact h.endPost {
    applyMark := hl.applyMark
    listedMark := hl.listedMark
    listedUntrusted := hc
    posted := by simp [hnone]
    postTrusted := fun hp => by rw [hnone] at hp; cases hp
    behind := fun e he hline => (Stamp.atLeast_iff _ _).2 (.inr (Stamp.newer_of_atLeast hnew (hl.behind e he hline)))
    healsFlight := fun e _ _ f hf hs => by rw [hsuperseded f hf] at hs; cases hs }

/-- An entry joins the queue at its line's current stamp, where the line has no post, no queued FULL has that stamp, and a
flight that is not superseded is to be healed (R27, R34, R35). -/
theorem queueApply {u : Update} (cause : ApplyCause) (hstamp : u.stamp = (s.lineRec u.line).stamp)
    (hnone : (s.lineRec u.line).pending.post.isSome = false)
    (hfresh : ∀ e ∈ s.applyQueue, e.line = u.line → e.kind = .full → u.kind = .full → e.stamp ≠ u.stamp)
    (hflight : ∀ f, (s.lineRec u.line).pending = .inflight f → f.superseded = false →
      u.kind = .full ∧ (s.lineRec u.line).content ≠ .valid) : (s.queueApply u cause).Consistent := by
  have hl := h.line u.line
  refine h.of_line u.line (h.linesWf.set _ _ _) (fun l hne => State.lineRec_setRec_other s _ hne) (fun e he => ?_)
    (fun _ _ => Iff.rfl) (fun _ _ => Iff.rfl) ?_ h.repairNodup h.postNodup ?_
  · show e ∈ s.applyQueue ++ [_] ↔ _
    simp only [List.mem_append, List.mem_singleton, or_iff_left_iff_imp]
    rintro rfl
    exact absurd rfl he
  · have hrec : (s.queueApply u cause).lineRec u.line = { s.lineRec u.line with applyPending := true } :=
      State.lineRec_setRec_same s u.line _
    rw [hrec]
    exact {
      applyMark := by simp [State.queueApply]
      listedMark := hl.listedMark
      listedUntrusted := hl.listedUntrusted
      posted := hl.posted
      postTrusted := fun hp => by rw [hnone] at hp; cases hp
      behind := fun e he hline => by
        obtain he | he := List.mem_append.1 he
        · exact hl.behind e he hline
        · rw [List.mem_singleton.1 he, hstamp]
          exact Stamp.atLeast_refl _
      healsFlight := fun e he hline f hf hs => by
        obtain he | he := List.mem_append.1 he
        · exact hl.healsFlight e he hline f hf hs
        · rw [List.mem_singleton.1 he]
          obtain ⟨hkind, hc⟩ := hflight f hf hs
          exact ⟨hkind, hstamp, hc⟩ }
  · refine List.pairwise_append.2 ⟨h.fullsDiffer, List.pairwise_singleton _ _, fun a ha b hb => ?_⟩
    rw [List.mem_singleton.1 hb]
    exact fun hakind hukind hline => hfresh a ha hline hakind hukind

theorem raiseAndQueue {u : Update} (hnew : u.stamp.newer (s.lineRec u.line).stamp = true) :
    (s.raiseAndQueue u).Consistent := by
  have hl := h.line u.line
  obtain ⟨hnone, hsuperseded⟩ := supersededPending_spec (s.lineRec u.line).pending
  have hraised := h.raiseRec hnew hl.listedUntrusted
  have hrec : (s.raiseRec u (s.lineRec u.line).content).lineRec u.line =
      { s.lineRec u.line with stamp := u.stamp, pending := (supersededPending (s.lineRec u.line).pending).1 } :=
    State.lineRec_setRec_same s u.line _
  have hqueued : ((s.raiseRec u (s.lineRec u.line).content).queueApply u .raise).Consistent := by
    refine hraised.queueApply .raise (by rw [hrec]) (by rw [hrec]; exact hnone) (fun e he hline _ _ heq => ?_)
      fun f hf hs => ?_
    · have hnewer := Stamp.newer_of_atLeast hnew (hl.behind e he hline)
      rw [heq, Stamp.newer_irrefl] at hnewer
      cases hnewer
    · rw [hrec] at hf
      rw [hsuperseded f hf] at hs
      cases hs
  unfold State.raiseAndQueue
  dsimp only
  apply drainTest
  split
  · exact hqueued.give _
  · exact hqueued

theorem raiseStale {u : Update} (hnew : u.stamp.newer (s.lineRec u.line).stamp = true) :
    (s.raiseStale u).Consistent := by
  have hrec : ((s.raiseRec u .stale).lineRec u.line).content = .stale :=
    congrArg LineRecord.content (State.lineRec_setRec_same s u.line _)
  have ht := (h.raiseRec hnew (content := .stale) fun _ => by simp).listLine (line := u.line) (by rw [hrec]; simp)
  unfold State.raiseStale
  dsimp only
  apply drainTest
  split
  · exact ht.of_holdings (State.holdings_giveBoth _ _ _)
  · exact ht.give _
  · exact ht.give _
  · exact ht

theorem decideUpdate (u : Update) : (s.decideUpdate u).1.Consistent := by
  have hl := h.line u.line
  have hd := s.decideUpdate_decided u
  generalize (s.decideUpdate u).1 = t at hd ⊢
  cases hd with
  | raised hnew => exact h.raiseAndQueue hnew
  | stale hnew => exact h.raiseStale hnew
  | heal hstamp huntrusted huncovered hkind =>
    refine h.queueApply .heal hstamp ?_ (fun e he hline hekind _ heq => ?_) fun _ _ _ => ⟨hkind, huntrusted⟩
    · cases hp : (s.lineRec u.line).pending.post.isSome with
      | false => rfl
      | true => exact absurd (hl.postTrusted hp).1 huntrusted
    · rw [State.covered, List.any_eq_false] at huncovered
      exact huncovered e he (by simp [hline, hekind, heq, hstamp])
  | unchanged => exact h

theorem act (f : List Byte) : (s.act f).1.Consistent := by
  unfold State.act
  dsimp only
  split
  · split
    · exact h.decideUpdate _
    · exact h
  · split
    · exact h.decideUpdate _
    · exact h
  · split
    · unfold State.decideRequest
      split
      · dsimp only
        split
        · exact h
        · exact { h with }
      · exact h
    · exact h
  · exact h
  · exact h

theorem routeFrame (f : List Byte) (sent : Nat) : (s.routeFrame f sent).Consistent := by
  unfold State.routeFrame
  split
  · exact h
  · split
    · exact h.strip f
    · split
      · exact h
      · exact (h.act f).of_holdings (State.holdings_enterFifo _ _ _)

/-! ## The Framer's builds -/

theorem setBuild (b : Option Build) : ({ s with build := b } : State).Consistent := { h with }

theorem abandonBuild : s.abandonBuild.Consistent := { h with }

theorem handOver (f : List Byte) : (s.handOver f).Consistent := { h with }

theorem endSweepStep : s.endSweepStep.Consistent := { h with }

theorem transmit (i : SlotNo) (u : SlotUse) : (s.transmit i u).Consistent := { h with }

theorem buildProbe : s.buildProbe.Consistent := by
  have hkeep : ∀ {t : State} (p : ProbeRecord) (f : List Byte), t.Consistent →
      ({ t with probe := p }.handOver f).Consistent :=
    fun _ f ht => { ht.handOver f with }
  unfold State.buildProbe
  dsimp only
  split
  · exact hkeep _ _ h.loseProbe
  · exact hkeep _ _ h
  · exact hkeep _ _ h

theorem buildRequest (i : SlotNo) (u : SlotUse) : (s.buildRequest i u).Consistent := (h.transmit i u).handOver _

theorem serveDue (i : SlotNo) : (s.serveDue i).Consistent := by
  unfold State.serveDue
  split
  · exact h
  · split
    · exact h.buildRequest i _
    · exact h.setBuild _
    · exact h.setBuild _
    · exact h.setBuild _
    · exact h

theorem serveSweep : s.serveSweep.Consistent := by
  unfold State.serveSweep
  split
  · exact h.setBuild _
  · next hcase => exact (h.listLine (State.untrusted_of_listing hcase)).endSweepStep
  · exact h.endSweepStep

theorem choose : s.choose.Consistent := by
  unfold State.choose
  split
  · exact h.buildProbe
  · split
    · exact h
    · split
      · exact h.serveDue _
      · split
        · exact h.setBuild _
        · split
          · exact h.buildRequest _ _
          · split
            · exact h.setBuild _
            · split
              · exact h.serveSweep
              · exact h

theorem buildPost (line : Nat) : (s.buildPost line).Consistent := by
  unfold State.buildPost
  dsimp only
  split
  · exact (h.checkFailure line).abandonBuild.drainTest
  · split
    · next p i hp _ =>
      have ht := h.transmit i ⟨.update, line, (s.lineRec line).stamp, 0, none, none⟩
      exact ((ht.endTrustedPost (line := line) (p := .inflight ⟨i, false⟩)
        (show (s.lineRec line).pending.post.isSome = true by rw [hp]; rfl) (s.lineRec line).stamp rfl).handOver _).drainTest
    · exact h.abandonBuild

theorem freeUnfit (i : SlotNo) (line : Nat) : (s.freeUnfit i line).Consistent :=
  (h.freeFlight i line _).abandonBuild.drainTest

theorem buildMendResend (i : SlotNo) (u : SlotUse) : (s.buildMendResend i u).Consistent := by
  unfold State.buildMendResend
  dsimp only
  split
  · exact (h.checkFailure u.line).freeUnfit i u.line
  · split
    · exact (h.transmit i u).handOver _
    · exact h.freeUnfit i u.line

theorem buildReplacement (i : SlotNo) (u : SlotUse) : (s.buildReplacement i u).Consistent := by
  unfold State.buildReplacement
  dsimp only
  split
  · exact (h.checkFailure u.line).freeUnfit i u.line
  · split
    · next f p hp =>
      split
      · have ht := h.transmit i { u with stamp := (s.lineRec u.line).stamp }
        exact ((ht.endTrustedPost (line := u.line) (p := .inflight f)
          (show (s.lineRec u.line).pending.post.isSome = true by rw [hp]; rfl) (s.lineRec u.line).stamp rfl).handOver
            _).drainTest
      · exact h.freeUnfit i u.line
    all_goals exact h.freeUnfit i u.line

theorem buildAnswer (line : Nat) (rest : List Nat) : (s.buildAnswer line rest).Consistent := by
  have ht : { s with answerQueue := rest }.Consistent := { h with }
  unfold State.buildAnswer
  dsimp only
  split
  · exact (ht.checkFailure line).abandonBuild.drainTest
  · split
    · exact ht.handOver _
    · exact ht.abandonBuild

theorem fetchSweep (line : Nat) : (s.fetchSweep line).Consistent := by
  unfold State.fetchSweep
  split
  · exact (h.checkFailure line).abandonBuild.endSweepStep.drainTest
  · split
    · exact (h.handOver _).endSweepStep
    · next hcase => exact (h.listLine (State.untrusted_of_listing hcase)).abandonBuild.endSweepStep
    · exact h.abandonBuild.endSweepStep

/-! ## The replica window -/

theorem refuseWrite (line : Nat) (reason : RefuseReason) : (s.refuseWrite line reason).Consistent :=
  (h.give _).complete false none

theorem readWord (la : BitVec 15) : (s.readWord la).Consistent := by
  unfold State.readWord
  dsimp only
  split
  · exact ((h.checkFailure (lineOf la)).complete _ _).drainTest
  · split
    · exact h.complete _ _
    · exact h.complete _ _

/-- The record and the Post List of a line that takes a write, VALID with nothing queued (R10, R51 to R53). -/
theorem takeWrite {line : Nat} (hv : (s.lineRec line).content = .valid) (ha : (s.lineRec line).applyPending = false)
    (mask : Mask) (stationNumber : Byte) :
    ({ s.setRec line (writtenRec (s.lineRec line) mask stationNumber).1 with
        postList :=
          if (writtenRec (s.lineRec line) mask stationNumber).2 then s.postList ++ [line]
          else s.postList } : State).Consistent := by
  have hl := h.line line
  unfold writtenRec
  dsimp only
  split
  · next hp => exact h.beginPost (by rw [hp]; rfl) hv ha _ rfl
  · next f hp => exact h.beginPost (by rw [hp]; rfl) hv ha _ rfl
  · next p hp =>
    split
    · exact h.setRec (hl.setUnqueued ha hv _ hl.posted)
    · exact h.setPending line (by rw [hp]; rfl) fun _ e => nomatch e
  · next f p hp => exact h.setPending line (by rw [hp]; rfl) fun _ e => nomatch e

theorem mergeWrite (la : BitVec 15) (be : BitVec 4) (ld : Word) (hv : (s.lineRec (lineOf la)).content = .valid)
    (ha : (s.lineRec (lineOf la)).applyPending = false) : (s.mergeWrite la be ld).Consistent := by
  have hw := h.writeLine (lineOf la)
    (Mask.merge (enabledMask (wordOf la) be) 0 (s.lineBytes (lineOf la)) (enabledBytes be ld))
  exact (hw.takeWrite (line := lineOf la) hv ha (enabledMask (wordOf la) be) s.config.stationNumber).complete true none

/-- A granted write acts on a line with nothing queued, unless it is the held line, which refuses it (R10, R49, R50). -/
theorem writeWord (la : BitVec 15) (be : BitVec 4) (ld : Word)
    (ha : (s.lineRec (lineOf la)).applyPending = false ∨ s.isHeld (lineOf la) = true) :
    (s.writeWord la be ld).Consistent := by
  unfold State.writeWord
  dsimp only
  split
  · split
    · exact h.refuseWrite _ _
    · exact ((h.checkFailure (lineOf la)).refuseWrite _ _).drainTest
  · next hnone =>
    obtain ⟨hv, hheld⟩ := State.of_writeRefusal_eq_none hnone
    exact h.mergeWrite la be ld hv (ha.elim id hheld)

/-! ## RESET, the clearing pass and the deadlines -/

omit h in
theorem reset : State.reset.Consistent where
  linesWf := ⟨List.Pairwise.nil, fun _ he => absurd he List.not_mem_nil⟩
  line _ := {
    applyMark := rfl
    listedMark := rfl
    listedUntrusted := fun hl => nomatch hl
    posted := ⟨fun hl => absurd hl List.not_mem_nil, fun hp => nomatch hp⟩
    postTrusted := fun hp => nomatch hp
    behind := fun _ he => absurd he List.not_mem_nil
    healsFlight := fun _ he => absurd he List.not_mem_nil }
  repairNodup := List.nodup_nil
  postNodup := List.nodup_nil
  fullsDiffer := List.Pairwise.nil

omit h in
theorem assertReset : s.assertReset.Consistent := { reset with }

theorem releaseReset : s.releaseReset.Consistent := by
  unfold State.releaseReset
  split
  · exact { h with }
  · exact h

theorem clearLine : s.clearLine.Consistent := by
  unfold State.clearLine
  split
  · next line _ =>
    have ht := h.writeLine line (List.replicate 32 0)
    have hphase : ∀ {t : State} (p : ResetPhase), t.Consistent → ({ t with phase := p } : State).Consistent :=
      fun _ ht => { ht with }
    dsimp only
    split
    · exact hphase _ ht
    · exact (hphase .ended ht).of_holdings (State.holdings_resumeCleared _)
  all_goals exact h

theorem updateDeadline (i : SlotNo) (u : SlotUse) : (s.updateDeadline i u).Consistent := by
  have hfree := h.freeFlight i u.line false
  have hslot : (s.freeSlot i).Consistent := { h with }
  unfold State.updateDeadline
  dsimp only
  split
  · split
    · exact hfree.drainTest
    · split
      · exact h.makeDue i u _ _
      · exact (hfree.give _).drainTest
  · split
    · exact hfree.drainTest
    · exact h.makeDue i u _ _
  all_goals exact hslot.drainTest

/-! ## The step -/

/-- The line a granted access has struck, with the hold bound. -/
theorem strikeAndBind (a : Access) (u : Option Upset) : ((s.strike (lineOf a.la) u).bindHold a).Consistent :=
  (h.strike (lineOf a.la) u).of_holdings (State.holdings_bindHold _ a)

theorem answer (code : BitVec 8) (arg : BitVec 16) (result : CommandResult) : (s.answer code arg result).Consistent :=
  h.of_holdings rfl

/-- Every command keeps the invariant. -/
theorem exec_meets (i : Instr) : Result.Meets (exec i s) State.Consistent := by
  by_cases hi : leavesHoldings i = true
  · exact fun t ht => h.of_holdings (exec_leavesHoldings hi s t ht)
  cases i
  case reset => exact Result.meets_next.2 assertReset
  case resetRelease => exact Result.meets_next.2 h.releaseReset
  case clearingPassClaim => exact Result.meets_next.2 h.clearLine
  case readClaimGranted u =>
    exact execReadClaimGranted_meets h u (fun _ _ => h.of_holdings rfl) fun a _ => (h.strikeAndBind a u).readWord a.la
  case writeClaimGranted u =>
    exact execWriteClaimGranted_meets h u (fun _ _ => h.of_holdings rfl)
      fun a be ld hg => (h.strikeAndBind a u).writeWord a.la be ld (hg.unqueued_or_held u)
  case leave arg =>
    exact execLeave_meets h arg (h.answer _ _ _)
      (((h.depart .offline).of_holdings (State.holdings_endDrain _)).answer _ _ _)
  case watch line => exact execWatch_meets h line (h.answer _ _ _) fun _ => (h.setWatched line.toNat true).answer _ _ _
  case unwatch line =>
    exact execUnwatch_meets h line (h.answer _ _ _) fun _ => (h.setWatched line.toNat false).answer _ _ _
  case query line =>
    have hquery : ∀ q : QueryRecord, ({ s with query := q } : State).Consistent := fun _ => { h with }
    exact execQuery_meets h line (h.answer _ _ _) fun _ => (hquery _).answer _ _ _
  case frameReceivedWhole bytes sent =>
    have ht : { s with receiving := false }.Consistent := h.of_holdings rfl
    exact execFrameReceivedWhole_meets h bytes sent ht (ht.routeFrame bytes sent)
  case carrierLost =>
    have ht : { s with carrier := false, receiving := false }.Consistent := h.of_holdings rfl
    exact execCarrierLost_meets h ht (ht.enterIsolated .carrier)
  case insertionComplete =>
    have ht : { s with sending := .idle, place := none }.Consistent := h.of_holdings rfl
    exact execInsertionComplete_meets h fun f _ => ht.reportInsertion f
  case framerChoice => exact execFramerChoice_meets h h.choose
  case postBuild u => exact execPostBuild_meets h u fun line _ => (h.strike line u).buildPost line
  case mendResendBuild u =>
    exact execMendResendBuild_meets h u h.abandonBuild fun i v _ _ => (h.strike v.line u).buildMendResend i v
  case replacementBuild u =>
    exact execReplacementBuild_meets h u h.abandonBuild fun i v _ _ => (h.strike v.line u).buildReplacement i v
  case answerBuild u =>
    exact execAnswerBuild_meets h u h.abandonBuild fun line rest _ _ => (h.strike line u).buildAnswer line rest
  case sweepRefreshFetch u =>
    exact execSweepRefreshFetch_meets h u fun _ => (h.strike s.sweep.pointer u).fetchSweep s.sweep.pointer
  case applyFull =>
    exact execApplyFull_meets h fun e rest hq _ hkind =>
      (h.applyFullEntry hq hkind).of_holdings (State.holdings_resumeApplied _)
  case applyDelta u =>
    exact execApplyDelta_meets h u fun e rest hq _ _ =>
      (h.applyDeltaEntry hq u).of_holdings (State.holdings_resumeApplied _)
  case updateDeadline i =>
    refine execUpdateDeadline_meets h i fun u d _ _ _ => ?_
    have ht : (s.reach d).Consistent := h.of_holdings rfl
    exact ht.updateDeadline i u
  case repairDeadline i =>
    refine execRepairDeadline_meets h i fun u d _ _ _ => ?_
    have ht : (s.reach d).Consistent := h.of_holdings rfl
    exact ht.repairUnanswered i u
  case probeLost =>
    refine execProbeLost_meets h fun d => ?_
    have ht : (s.reach d).Consistent := h.of_holdings rfl
    exact ht.loseProbe
  all_goals exact absurd rfl hi

end State.Consistent

/-- Settles O58: the tick changes neither records nor lists, and every command keeps each line's record in step with the
Apply Queue, the Repair List and the Post List. -/
theorem stepsKeepPostsTrusted : Obligations.StepsKeepPostsTrusted := by
  unfold Obligations.StepsKeepPostsTrusted
  intro s t h hstep
  rw [← State.consistent_iff] at h ⊢
  exact step_meets (fun _ hs => hs.of_holdings rfl) (fun _ _ hs => hs.of_holdings rfl) (fun i _ hs => hs.exec_meets i) h
    t hstep

end Sys2Proof.Machine

namespace Sys2Proof.Machine

/-! ## The reset state meets every invariant -/

theorem State.updateSlots_reset : State.reset.updateSlots = 0 :=
  (State.updateSlots_eq_zero _).2 fun i => by rw [State.slot_reset]; rfl

theorem State.withinCapacity_reset : State.reset.WithinCapacity :=
  ⟨by decide, by decide, by decide, List.nodup_nil, by decide, fun h => absurd h (by decide), by decide,
    State.updateSlots_reset ▸ by decide⟩

theorem State.use_reset (i : SlotNo) : (State.reset.slot i).use = none := by rw [State.slot_reset]

theorem State.attemptsBounded_reset : State.reset.AttemptsBounded :=
  ⟨fun i _ h => (nomatch (State.use_reset i).symm.trans h), fun h => (nomatch h), fun _ => ⟨rfl, rfl, State.use_reset⟩⟩

theorem State.not_names_reset (i : SlotNo) (p : Purpose) (l : Nat) : (State.reset.slot i).names p l = false := by
  rw [State.slot_reset]; rfl

theorem State.slotsAgree_reset : State.reset.SlotsAgree := by
  refine ⟨fun l f h => (nomatch h), fun i l h => ?_, fun i j l h _ => ?_, fun i l h => ?_⟩ <;>
  · rw [State.not_names_reset] at h
    cases h

/-- Nothing is sent, and the FIFO is empty (R139). -/
theorem State.sendingAgrees_reset : State.reset.SendingAgrees :=
  ⟨fun _ h => (nomatch h), fun h => (nomatch h), by decide⟩

/-- The station is OFFLINE on a repeating link (R139, R152). -/
theorem State.linkAgrees_reset : State.reset.LinkAgrees :=
  ⟨rfl, fun _ => ⟨rfl, rfl, rfl⟩, fun h => (nomatch h), fun _ h => (nomatch h)⟩

theorem State.stationAgrees_reset : State.reset.StationAgrees :=
  ⟨fun h => absurd rfl h, fun h => (nomatch h), fun _ => ⟨rfl, rfl, rfl, rfl, rfl⟩, fun h => (nomatch h), fun _ _ => rfl,
    fun _ => ⟨rfl, rfl, rfl⟩, fun _ h => (nomatch h)⟩

/-- Settles O54: the groups that the two step invariants hold come from theirs, the others from the empty lists, table and
FIFO of the reset state. -/
theorem resetSatisfiesTheInvariants : Obligations.ResetSatisfiesTheInvariants := by
  unfold Obligations.ResetSatisfiesTheInvariants
  obtain ⟨hcanonical, hwithin⟩ := (State.contained_iff _).1 State.Contained.reset
  obtain ⟨hlists, hposts, hentries⟩ := (State.consistent_iff _).1 State.Consistent.reset
  exact ⟨hcanonical, hwithin, State.withinCapacity_reset, State.attemptsBounded_reset,
    fun _ h => absurd h List.not_mem_nil, hlists, State.slotsAgree_reset, fun _ => ⟨rfl, State.use_reset⟩, hposts, hentries,
    State.sendingAgrees_reset, State.linkAgrees_reset, State.stationAgrees_reset, fun h => nomatch h⟩

end Sys2Proof.Machine

/-! # Returns, timeouts and mends: what a step answers, the return of own frames, and the deadlines of the slots

The statements of the family 04_returns_timeouts_and_mends. The end of a flight (`State.FlightEnds`) and a transmission that
becomes due (`State.makeDue_onlySlot`) are each described once; the return of a frame and the deadline of its slot are then
case splits over the pending state that choose between the two. That every step answers a next state rests on one lemma for
each operation, `State.…_pending`: it leaves the queue of commands alone. -/

namespace Sys2Proof.Machine

/-! ## The end of a flight and its notices -/

/-- Notices given in turn change the Notice Queue alone (R190). -/
theorem State.giveAll_frame (s : State) (ns : List Notice) :
    ns.foldl State.give s = { s with notices := noticesAfter s.notices ns } := by
  induction ns generalizing s with
  | nil => rfl
  | cons n ns ih => exact ih (s.give n)

/-- The drain test, made once the notices of a step are given, puts DRAINED COMPLETE behind them (R195). -/
theorem givesAndDrains_drainTest {s t : State} {ns : List Notice} (hn : t.notices = noticesAfter s.notices ns)
    (hd : t.drainPending = s.drainPending) : GivesAndDrains s t.drainTest ns := by
  unfold GivesAndDrains
  rw [State.drainTest_drained, State.drainTest_notices, State.drainTest_drainPending, hn, hd]
  refine ⟨?_, rfl⟩
  split <;> simp [noticesAfter]

/-- The pending state that the end of a flight leaves: the waiting post stays, must-full where asked for (R82 to R86). -/
def Pending.landed (p : Pending) (mustFull : Bool) : Pending :=
  match p.post with
  | none => .idle
  | some q => .posted { q with mustFull := q.mustFull || mustFull }

/-- A line in flight is INFLIGHT, or INFLIGHT_POSTED with its post (R6). -/
theorem Pending.of_flight {p : Pending} {x : Flight} (h : p.flight = some x) :
    p = .inflight x ∨ ∃ q, p = .inflightPosted x q := by
  cases p with
  | idle => cases h
  | posted => cases h
  | inflight => cases h; exact .inl rfl
  | inflightPosted _ q => cases h; exact .inr ⟨q, rfl⟩

/-- A step frees a slot, leaves the line it tracked in a pending state, gives notices and tests the drain; nothing else
changes. -/
def State.FlightEnds (s t : State) (i : SlotNo) (line : Nat) (p : Pending) (ns : List Notice) : Prop :=
  t = { s with slots := t.slots, lines := t.lines, notices := t.notices, drainPending := t.drainPending }
    ∧ OnlySlot s t i { s.slot i with use := none }
    ∧ OnlyRecord s t line { s.lineRec line with pending := p }
    ∧ GivesAndDrains s t ns

/-- The state once the flight that a slot carries has ended and the step's notices are given (R82 to R86). -/
def State.landFlight (s : State) (i : SlotNo) (line : Nat) (mustFull : Bool) (ns : List Notice) : State :=
  (ns.foldl State.give ((s.freeSlot i).endFlight i line mustFull)).drainTest

/-- The end of a flight frees its slot and lands its line; it touches no other slot and no other record. -/
theorem State.landFlight_ends {s : State} {i : SlotNo} {line : Nat} {x : Flight}
    (hx : (s.lineRec line).pending.flight = some x) (hi : x.slot = i) (mustFull : Bool) (ns : List Notice) :
    s.FlightEnds (s.landFlight i line mustFull ns) i line ((s.lineRec line).pending.landed mustFull) ns := by
  have hgiven := ((s.freeSlot i).endFlight i line mustFull).giveAll_frame ns
  have hrec : ((s.freeSlot i).endFlight i line mustFull).lineRec line =
      { s.lineRec line with pending := (s.lineRec line).pending.landed mustFull } := by
    rw [State.endFlight_rec, State.lineRec_freeSlot]
    obtain hp | ⟨p, hp⟩ := Pending.of_flight hx
    · simp [hp, hi, Pending.landed, Pending.post]
    · simp [hp, hi, Pending.landed, Pending.post]
  unfold State.FlightEnds State.landFlight
  rw [hgiven]
  refine ⟨?_, ⟨?_, fun j hj => ?_⟩, ⟨?_, fun k hk => ?_⟩, givesAndDrains_drainTest ?_ ?_⟩
  · rw [State.drainTest_frame, State.endFlight_frame]; rfl
  · rw [State.drainTest_slot]
    exact (State.endFlight_slot _ _ _ _ _).trans (s.slot_freeSlot_same i)
  · rw [State.drainTest_slot]
    exact (State.endFlight_slot _ _ _ _ _).trans (s.slot_freeSlot_other hj)
  · rw [State.drainTest_lineRec]
    exact hrec
  · rw [State.drainTest_lineRec]
    exact State.lineRec_endFlight_other _ i mustFull hk
  · rw [State.endFlight_notices]; rfl
  · exact State.endFlight_drainPending _ _ _ _

/-- The flight of an INFLIGHT line ends in IDLE (R82 to R86). -/
theorem State.landFlight_of_inflight {s : State} {i : SlotNo} {line : Nat} {x : Flight}
    (hp : (s.lineRec line).pending = .inflight x) (hi : x.slot = i) (mustFull : Bool) (ns : List Notice) :
    s.FlightEnds (s.landFlight i line mustFull ns) i line .idle ns := by
  have hends := State.landFlight_ends (by rw [hp]; rfl) hi mustFull ns
  rwa [hp] at hends

/-- The flight of an INFLIGHT_POSTED line ends in POSTED (R82 to R86). -/
theorem State.landFlight_of_inflightPosted {s : State} {i : SlotNo} {line : Nat} {x : Flight} {p : Post}
    (hp : (s.lineRec line).pending = .inflightPosted x p) (hi : x.slot = i) (mustFull : Bool) (ns : List Notice) :
    s.FlightEnds (s.landFlight i line mustFull ns) i line (.posted { p with mustFull := p.mustFull || mustFull }) ns := by
  have hends := State.landFlight_ends (by rw [hp]; rfl) hi mustFull ns
  rwa [hp] at hends

/-! ## A transmission that becomes due -/

/-- A transmission made due is written in its slot alone (R81). -/
theorem State.makeDue_onlySlot (s : State) (i : SlotNo) (u : SlotUse) (kind : TxKind) (n : Nat) :
    OnlySlot s (s.makeDue i u kind n) i
      { s.slot i with use := some { u with attempts := n, due := some ⟨kind, s.dueCount⟩, deadline := none } } :=
  ⟨s.slot_makeDue_same i u kind n, fun _ hj => s.slot_makeDue_other u kind n hj⟩

/-- An unanswered repair (R90, R92). -/
theorem State.repairUnanswered_spec (s : State) (i : SlotNo) (u : SlotUse) :
    RetriesOrGivesUp s (s.repairUnanswered i u) i u := by
  unfold State.repairUnanswered
  refine ⟨fun hbelow => ?_, fun hlimit => ?_⟩
  · rw [if_pos hbelow]
    exact ⟨rfl, s.makeDue_onlySlot i u .retry _⟩
  · rw [if_neg (Nat.not_lt.2 hlimit)]
    refine ⟨rfl, ⟨s.slot_freeSlot_same i, fun j hj => s.slot_freeSlot_other hj⟩, ?_, fun k hk => ?_⟩
    · exact ((s.freeSlot i).lineRec_unlistLine u.line u.line).trans (if_pos rfl)
    · exact ((s.freeSlot i).lineRec_unlistLine u.line k).trans (if_neg hk)

/-! ## Which frame is a matched return -/

/-- The state once the END of the frame in reception has come (R131). -/
def State.endReception (s : State) : State := { s with receiving := false }

/-- An own frame that is stripped is handed on by its kind once the reception has ended (R77, R131 to R135). -/
theorem exec_frameReceivedWhole_of_strip {s : State} {f : List Byte} (sent : Nat) (h : ToStrip s f) :
    exec (.frameReceivedWhole f sent) s = .next (s.endReception.strip f) := by
  obtain ⟨hreceives, hreceiving, hlength, hgood, hform, horigin⟩ := h
  simp [exec, execFrameReceivedWhole, State.routeFrame, State.endReception, hreceives, hreceiving, hlength, hgood, hform,
    horigin]

/-- The four conditions of R78. -/
theorem Slot.awaits_iff {x : Slot} {u : SlotUse} (hu : x.use = some u) (p : Purpose) (generation : BitVec 4) :
    x.awaits p generation = true ↔ u.purpose = p ∧ generation = x.generation - 1 ∧ u.deadline.isSome = true := by
  simp [Slot.awaits, Slot.isFor, hu, and_assoc]

/-- A matched return of an update acts on its slot (R82 to R85). -/
theorem State.returnFrame_of_update {s : State} {f : List Byte} {u : SlotUse} (h : MatchedReturn s f .update u) :
    s.returnFrame f .update = s.updateReturn (Frame.slot f) u (Frame.missed f) := by
  obtain ⟨huse, hawaits⟩ := h
  simp only [State.returnFrame, huse, (Slot.awaits_iff huse .update _).2 hawaits, if_true]

/-- A matched return of a REQUEST with ANSWERED set leaves the slot waiting (R91), any other is unanswered (R90). -/
theorem State.returnFrame_of_repair {s : State} {f : List Byte} {u : SlotUse} (h : MatchedReturn s f .repair u) :
    s.returnFrame f .repair = if Frame.answered f then s else s.repairUnanswered (Frame.slot f) u := by
  obtain ⟨huse, hawaits⟩ := h
  simp only [State.returnFrame, huse, (Slot.awaits_iff huse .repair _).2 hawaits, if_true]

/-- A frame that is no matched return of its slot has no effect (R79). -/
theorem State.returnFrame_of_unmatched {s : State} {f : List Byte} {p : Purpose}
    (h : ∀ u, ¬ MatchedReturn s f p u) : s.returnFrame f p = s := by
  unfold State.returnFrame
  dsimp only
  split
  · rfl
  · next u huse =>
    split
    · next hawaits => exact absurd ⟨huse, (Slot.awaits_iff huse p _).1 hawaits⟩ (h u)
    · rfl

/-- A probe whose deadline has passed, or whose number is not the outstanding probe's, is late (R162). -/
theorem State.awaitsProbe_of_late {s : State} {number : BitVec 8}
    (h : ∀ p d, s.probe.outstanding = some p → p.deadline = some d → p.number = number → d < s.now) :
    s.awaitsProbe number = false := by
  unfold State.awaitsProbe
  split
  · next n d hp =>
    by_cases hn : n = number
    · have := h _ d hp rfl hn
      simp [this]
    · simp [hn]
  all_goals rfl

section
variable {s : State} {f : List Byte}

/-- A tracked FULL or DELTA that comes home (R77). -/
theorem State.strip_update (hk : Frame.kind f = .full ∨ Frame.kind f = .delta) :
    s.strip f = if Frame.untracked f then s else s.returnFrame f .update := by
  obtain hk | hk := hk <;> simp only [State.strip, hk]

theorem State.strip_request (hk : Frame.kind f = .request) : s.strip f = s.returnFrame f .repair := by
  simp only [State.strip, hk]

theorem State.strip_unknown (hk : Frame.kind f = .unknown) : s.strip f = s := by
  simp only [State.strip, hk]

/-- A probe of this station that is not awaited has no effect (R162). -/
theorem State.strip_probe_of_late (hk : Frame.kind f = .probe) (ht : Frame.token f = s.config.instanceToken)
    (ha : s.awaitsProbe (Frame.tag f) = false) : s.strip f = s := by
  simp [State.strip, hk, State.stripProbe, ht, ha]

end

/-- Settles O30, by the kind of the frame: each way of being late leaves `State.strip` without effect. -/
theorem lateReturnHasNoEffect : Obligations.LateReturnHasNoEffect := by
  unfold Obligations.LateReturnHasNoEffect
  intro s f sent hstrip hlate
  rw [exec_frameReceivedWhole_of_strip sent hstrip]
  refine congrArg Host.Outcome.next (?_ : s.endReception.strip f = s.endReception)
  obtain hk | ⟨hk, hlate⟩ | ⟨hk, hlate⟩ | ⟨hk, htoken, hlate⟩ := hlate
  · exact State.strip_unknown hk
  · rw [State.strip_update hk]
    split
    · rfl
    · next htracked => exact State.returnFrame_of_unmatched (hlate.resolve_left htracked)
  · rw [State.strip_request hk]
    exact State.returnFrame_of_unmatched hlate
  · exact State.strip_probe_of_late hk htoken (State.awaitsProbe_of_late hlate)

/-! ## The matched return of an update -/

/-- A matched FULL or DELTA that is tracked acts on its slot (R78, R82 to R85). -/
theorem exec_frameReceivedWhole_of_update {s : State} {f : List Byte} (sent : Nat) {u : SlotUse} (h : ToStrip s f)
    (hk : Frame.kind f = .full ∨ Frame.kind f = .delta) (ht : Frame.untracked f = false)
    (hm : MatchedReturn s f .update u) :
    exec (.frameReceivedWhole f sent) s =
      .next (s.endReception.updateReturn (Frame.slot f) u (Frame.missed f)) := by
  have hm : MatchedReturn s.endReception f .update u := hm
  rw [exec_frameReceivedWhole_of_strip sent h, State.strip_update hk, ht, State.returnFrame_of_update hm]
  rfl

section
variable {s : State} (i : SlotNo) {u : SlotUse} {x : Flight}

/-- A superseded write, or one with MISSED clear, ends its flight; CONFIRMED is for a watched line not superseded (R82,
R83). -/
theorem State.updateReturn_of_ended {missed : Bool} (hx : (s.lineRec u.line).pending.flight = some x)
    (h : x.superseded = true ∨ missed = false) :
    s.updateReturn i u missed =
      s.landFlight i u.line false
        (if x.superseded = false ∧ (s.lineRec u.line).watched = true then [.confirmed u.line] else []) := by
  have hpending := Pending.of_flight hx
  cases hs : x.superseded with
  | true => obtain hp | ⟨p, hp⟩ := hpending <;> simp [State.updateReturn, State.landFlight, hp, hs]
  | false =>
    obtain rfl : missed = false := h.resolve_left (by simp [hs])
    cases hw : (s.lineRec u.line).watched with
    | true => obtain hp | ⟨p, hp⟩ := hpending <;> simp [State.updateReturn, State.landFlight, hp, hs, hw]
    | false => obtain hp | ⟨p, hp⟩ := hpending <;> simp [State.updateReturn, State.landFlight, hp, hs, hw]

/-- With a post waiting, a MISSED write ends its flight and the post must go in full (R85). -/
theorem State.updateReturn_of_missed_posted {p : Post} (hp : (s.lineRec u.line).pending = .inflightPosted x p)
    (hs : x.superseded = false) : s.updateReturn i u true = s.landFlight i u.line true [] := by
  simp [State.updateReturn, State.landFlight, hp, hs]

/-- Without a post, a MISSED write on a VALID line is mended below the retry limit (R84). -/
theorem State.updateReturn_of_mended (hp : (s.lineRec u.line).pending = .inflight x) (hs : x.superseded = false)
    (h : (s.lineRec u.line).content = .valid ∧ u.attempts < s.config.retryLimit.toNat) :
    s.updateReturn i u true = s.makeDue i u .mend (u.attempts + 1) := by
  simp [State.updateReturn, hp, hs, h]

/-- Without a post, a MISSED write is given up at the retry limit, and forgotten on an untrusted line (R84). -/
theorem State.updateReturn_of_givenUp (hp : (s.lineRec u.line).pending = .inflight x) (hs : x.superseded = false)
    (h : ¬ ((s.lineRec u.line).content = .valid ∧ u.attempts < s.config.retryLimit.toNat)) :
    s.updateReturn i u true =
      s.landFlight i u.line false
        (if (s.lineRec u.line).content = .valid then [.undelivered u.line .missed] else []) := by
  unfold State.updateReturn State.landFlight
  by_cases hv : (s.lineRec u.line).content = .valid
  · have hlimit : ¬ u.attempts < s.config.retryLimit.toNat := fun ha => h ⟨hv, ha⟩
    simp [hp, hs, hv, hlimit]
  · simp [hp, hs, hv]

end

/-- Settles O31, by whether a post waits behind the flight: it stays as it is. -/
theorem returnThatEndsTheFlight : Obligations.ReturnThatEndsTheFlight := by
  unfold Obligations.ReturnThatEndsTheFlight
  intro s f sent u x hstrip hk htracked hmatched hx hslot hended
  refine ⟨_, exec_frameReceivedWhole_of_update sent hstrip hk htracked hmatched, ?_⟩
  rw [State.updateReturn_of_ended (s := s.endReception) _ hx hended]
  obtain hp | ⟨p, hp⟩ := Pending.of_flight hx
  · simp only [hp, Pending.post]
    exact State.landFlight_of_inflight (s := s.endReception) hp hslot false _
  · have hends := State.landFlight_of_inflightPosted (s := s.endReception) hp hslot false
    simp only [Bool.or_false] at hends
    simp only [hp, Pending.post]
    exact hends _

/-- Settles O32, by whether a post waits behind the flight. -/
theorem missedReturnMendsOrGivesUp : Obligations.MissedReturnMendsOrGivesUp := by
  unfold Obligations.MissedReturnMendsOrGivesUp
  intro s f sent u x hstrip hk htracked hmatched hx hslot hs hmissed
  refine ⟨_, exec_frameReceivedWhole_of_update sent hstrip hk htracked hmatched, ?_⟩
  rw [hmissed]
  obtain hp | ⟨p, hp⟩ := Pending.of_flight hx
  · simp only [hp, Pending.post]
    by_cases hmend : (s.lineRec u.line).content = .valid ∧ u.attempts < s.config.retryLimit.toNat
    · rw [if_pos hmend, State.updateReturn_of_mended (s := s.endReception) _ hp hs hmend]
      exact ⟨rfl, State.makeDue_onlySlot _ _ _ _ _⟩
    · rw [if_neg hmend, State.updateReturn_of_givenUp (s := s.endReception) _ hp hs hmend]
      exact State.landFlight_of_inflight (s := s.endReception) hp hslot false _
  · have hends := State.landFlight_of_inflightPosted (s := s.endReception) hp hslot true []
    rw [Bool.or_true] at hends
    simp only [hp, Pending.post]
    rw [State.updateReturn_of_missed_posted (s := s.endReception) _ hp hs]
    exact hends

/-! ## The return and the deadline of a REQUEST -/

/-- A slot in use for a purpose with its deadline present awaits that deadline (R80). -/
theorem State.deadlineOf_of_use {s : State} {i : SlotNo} {p : Purpose} {u : SlotUse} {d : Nat}
    (hu : (s.slot i).use = some u) (hp : u.purpose = p) (hd : u.deadline = some d) : s.deadlineOf i p = some (u, d) := by
  simp [State.deadlineOf, hu, hp, hd]

/-- Settles O33: the return and the deadline end in the same retry or giving up. -/
theorem unansweredRequestRetriesOrGivesUp : Obligations.UnansweredRequestRetriesOrGivesUp := by
  unfold Obligations.UnansweredRequestRetriesOrGivesUp
  refine ⟨fun s f sent u hstrip hk hmatched => ?_, fun s i u d hu hpurpose hd => ?_⟩
  · have hmatched : MatchedReturn s.endReception f .repair u := hmatched
    rw [exec_frameReceivedWhole_of_strip sent hstrip, State.strip_request hk, State.returnFrame_of_repair hmatched]
    refine ⟨fun hanswered => ?_, fun hunanswered => ⟨_, rfl, ?_⟩⟩
    · rw [if_pos hanswered]; rfl
    · rw [if_neg (Bool.eq_false_iff.1 hunanswered)]
      exact s.endReception.repairUnanswered_spec (Frame.slot f) u
  · refine ⟨(s.reach d).repairUnanswered i u, ?_, (s.reach d).repairUnanswered_spec i u⟩
    simp only [exec, execRepairDeadline, State.deadlineOf_of_use hu hpurpose hd]

/-! ## The deadline of an update -/

section
variable {s : State} (i : SlotNo) {u : SlotUse} {x : Flight}

/-- An INFLIGHT line that is VALID and not superseded is sent again below the retry limit (R86). -/
theorem State.updateDeadline_of_resent (hp : (s.lineRec u.line).pending = .inflight x)
    (h : x.superseded = false ∧ (s.lineRec u.line).content = .valid ∧ u.attempts < s.config.retryLimit.toNat) :
    s.updateDeadline i u = s.makeDue i u .resend (u.attempts + 1) := by
  simp [State.updateDeadline, hp, h]

/-- An INFLIGHT line is given up at the retry limit, and forgotten when superseded or untrusted (R86). -/
theorem State.updateDeadline_of_givenUp (hp : (s.lineRec u.line).pending = .inflight x)
    (h : ¬ (x.superseded = false ∧ (s.lineRec u.line).content = .valid ∧ u.attempts < s.config.retryLimit.toNat)) :
    s.updateDeadline i u =
      s.landFlight i u.line false
        (if x.superseded = false ∧ (s.lineRec u.line).content = .valid then [.undelivered u.line .timeout] else []) := by
  unfold State.updateDeadline State.landFlight
  cases hs : x.superseded with
  | true => simp [hp, hs]
  | false =>
    by_cases hv : (s.lineRec u.line).content = .valid
    · have hlimit : ¬ u.attempts < s.config.retryLimit.toNat := fun ha => h ⟨hs, hv, ha⟩
      simp [hp, hs, hv, hlimit]
    · simp [hp, hs, hv]

/-- A superseded INFLIGHT_POSTED line becomes POSTED (R86). -/
theorem State.updateDeadline_of_superseded {p : Post} (hp : (s.lineRec u.line).pending = .inflightPosted x p)
    (hs : x.superseded = true) : s.updateDeadline i u = s.landFlight i u.line false [] := by
  simp [State.updateDeadline, State.landFlight, hp, hs]

/-- The post behind a write that is not superseded becomes due in its stead (R87). -/
theorem State.updateDeadline_of_replaced {p : Post} (hp : (s.lineRec u.line).pending = .inflightPosted x p)
    (hs : ¬ x.superseded = true) : s.updateDeadline i u = s.makeDue i u .replacement 0 := by
  simp [State.updateDeadline, hp, hs]

end

/-- Settles O48, by whether a post waits behind the flight. -/
theorem updateDeadlineResendsReplacesOrGivesUp : Obligations.UpdateDeadlineResendsReplacesOrGivesUp := by
  unfold Obligations.UpdateDeadlineResendsReplacesOrGivesUp
  intro s i u d x hu hpurpose hd hx hslot
  refine ⟨(s.reach d).updateDeadline i u, ?_, ?_⟩
  · simp only [exec, execUpdateDeadline, State.deadlineOf_of_use hu hpurpose hd]
  obtain hp | ⟨p, hp⟩ := Pending.of_flight hx
  · simp only [hp, Pending.post]
    by_cases hresend :
        x.superseded = false ∧ (s.lineRec u.line).content = .valid ∧ u.attempts < s.config.retryLimit.toNat
    · rw [if_pos hresend, State.updateDeadline_of_resent (s := s.reach d) i hp hresend]
      exact ⟨rfl, State.makeDue_onlySlot _ _ _ _ _⟩
    · rw [if_neg hresend, State.updateDeadline_of_givenUp (s := s.reach d) i hp hresend]
      exact State.landFlight_of_inflight (s := s.reach d) hp hslot false _
  · have hends := State.landFlight_of_inflightPosted (s := s.reach d) hp hslot false []
    rw [Bool.or_false] at hends
    simp only [hp, Pending.post]
    by_cases hs : x.superseded = true
    · rw [if_pos hs, State.updateDeadline_of_superseded (s := s.reach d) i hp hs]
      exact hends
    · rw [if_neg hs, State.updateDeadline_of_replaced (s := s.reach d) i hp hs]
      exact ⟨rfl, State.makeDue_onlySlot _ _ _ _ _⟩

end Sys2Proof.Machine

namespace Sys2Proof.Machine

/-! ## The queue of commands

No command looks at the queue or changes it; each lemma says so of one operation of the model, in the order of the
model's files. -/

section
variable (s : State)

/-! ### Accesses and the Apply Unit -/

@[simp] theorem State.writeLine_pending (line : Nat) (bytes : List Byte) :
    (s.writeLine line bytes).pending = s.pending := rfl

@[simp] theorem State.refuseWrite_pending (line : Nat) (reason : RefuseReason) :
    (s.refuseWrite line reason).pending = s.pending := rfl

@[simp] theorem State.takeAccess_pending (a : Access) : (s.takeAccess a).pending = s.pending := by
  rw [State.takeAccess_frame]

@[simp] theorem State.bindHold_pending (a : Access) : (s.bindHold a).pending = s.pending := by
  rw [State.bindHold_eq]

@[simp] theorem State.sampleHold_pending (lhold noByte : Bool) : (s.sampleHold lhold noByte).pending = s.pending := by
  unfold State.sampleHold
  (repeat' split) <;> rfl

@[simp] theorem State.failWaiting_pending : s.failWaiting.pending = s.pending := by
  unfold State.failWaiting
  (repeat' split) <;> rfl

@[simp] theorem State.giveApplied_pending (e : ApplyEntry) : (s.giveApplied e).pending = s.pending := by
  unfold State.giveApplied
  dsimp only
  split <;> rfl

@[simp] theorem State.applyFullEntry_pending (e : ApplyEntry) (rest : List ApplyEntry) :
    (s.applyFullEntry e rest).pending = s.pending := by
  unfold State.applyFullEntry
  dsimp only
  rw [State.giveApplied_pending, State.popApply_pending]
  (repeat' split) <;> rfl

@[simp] theorem State.applyDeltaEntry_pending (e : ApplyEntry) (rest : List ApplyEntry) (upset : Option Upset) :
    (s.applyDeltaEntry e rest upset).pending = s.pending := by
  unfold State.applyDeltaEntry
  dsimp only
  split
  · rfl
  · split <;> simp

@[simp] theorem State.readWord_pending (la : BitVec 15) : (s.readWord la).pending = s.pending := by
  unfold State.readWord
  dsimp only
  split
  · simp [State.fail]
  · split <;> rfl

@[simp] theorem State.writeWord_pending (la : BitVec 15) (be : BitVec 4) (ld : Word) :
    (s.writeWord la be ld).pending = s.pending := by
  unfold State.writeWord
  dsimp only
  split
  · split <;> simp
  · rfl

@[simp] theorem State.releaseReset_pending : s.releaseReset.pending = s.pending := by
  unfold State.releaseReset
  split <;> rfl

@[simp] theorem State.clearLine_pending : s.clearLine.pending = s.pending := by
  unfold State.clearLine
  split
  · dsimp only
    split <;> simp
  all_goals rfl

/-! ### Changes of station state -/

@[simp] theorem State.enterIsolated_pending (detail : RingDownDetail) :
    (s.enterIsolated detail).pending = s.pending := by
  obtain ⟨_, _, _, h⟩ := s.enterIsolated_frame detail
  rw [h]

@[simp] theorem State.depart_pending (target : StationState) : (s.depart target).pending = s.pending := by
  obtain ⟨_, _, _, _, _, h⟩ := s.depart_frame target
  rw [h]

@[simp] theorem State.endDrain_pending : s.endDrain.pending = s.pending := by
  rw [State.endDrain_frame]

@[simp] theorem State.enterFault_pending : s.enterFault.pending = s.pending := by
  simp [State.enterFault]

@[simp] theorem State.loseProbe_pending : s.loseProbe.pending = s.pending := by
  unfold State.loseProbe
  dsimp only
  split
  · exact State.enterIsolated_pending _ _
  · rfl

@[simp] theorem State.join_pending : s.join.pending = s.pending := by
  unfold State.join State.joinRing
  dsimp only
  split <;> rfl

/-! ### Ring-out and own insertions -/

@[simp] theorem State.endForwarded_pending : s.endForwarded.pending = s.pending := by
  unfold State.endForwarded
  split <;> rfl

@[simp] theorem State.chooseOutput_pending : s.chooseOutput.pending = s.pending := by
  unfold State.chooseOutput
  split <;> rfl

@[simp] theorem State.reportSlot_pending (i : SlotNo) (generation : BitVec 4) :
    (s.reportSlot i generation).pending = s.pending := by
  unfold State.reportSlot
  dsimp only
  split
  · rfl
  · split <;> rfl

@[simp] theorem State.reportProbe_pending (number : BitVec 8) : (s.reportProbe number).pending = s.pending := by
  unfold State.reportProbe
  split
  · split <;> rfl
  · rfl

@[simp] theorem State.reportInsertion_pending (f : List Byte) : (s.reportInsertion f).pending = s.pending := by
  unfold State.reportInsertion
  split
  · simp
  · split <;> simp
  · split <;> simp
  · simp
  · rfl

/-! ### Frames received whole -/

@[simp] theorem State.raiseAndQueue_pending (u : Update) : (s.raiseAndQueue u).pending = s.pending := by
  unfold State.raiseAndQueue
  dsimp only
  rw [State.drainTest_pending]
  split <;> rfl

@[simp] theorem State.raiseStale_pending (u : Update) : (s.raiseStale u).pending = s.pending := by
  unfold State.raiseStale
  dsimp only
  rw [State.drainTest_pending]
  split <;> simp

@[simp] theorem State.decideUpdate_pending (u : Update) : (s.decideUpdate u).1.pending = s.pending := by
  have hd := s.decideUpdate_decided u
  generalize (s.decideUpdate u).1 = t at hd ⊢
  cases hd with
  | raised => exact s.raiseAndQueue_pending u
  | stale => exact s.raiseStale_pending u
  | heal => rfl
  | unchanged => rfl

@[simp] theorem State.decideRequest_pending (line : Nat) (stamp : Stamp) :
    (s.decideRequest line stamp).1.pending = s.pending := by
  unfold State.decideRequest
  split
  · dsimp only
    split <;> rfl
  · rfl

@[simp] theorem State.act_pending (f : List Byte) : (s.act f).1.pending = s.pending := by
  unfold State.act
  dsimp only
  split
  · split <;> simp
  · split <;> simp
  · split <;> simp
  all_goals rfl

@[simp] theorem State.enterFifo_pending (copy : List Byte) (sent : Nat) :
    (s.enterFifo copy sent).pending = s.pending := by
  have hprogress : (s.progress sent).pending = s.pending := by
    unfold State.progress
    split <;> rfl
  unfold State.enterFifo
  dsimp only
  split <;> exact hprogress

@[simp] theorem State.updateReturn_pending (i : SlotNo) (u : SlotUse) (missed : Bool) :
    (s.updateReturn i u missed).pending = s.pending := by
  unfold State.updateReturn
  dsimp only
  (repeat' split) <;> simp

@[simp] theorem State.repairUnanswered_pending (i : SlotNo) (u : SlotUse) :
    (s.repairUnanswered i u).pending = s.pending := by
  unfold State.repairUnanswered
  split <;> rfl

@[simp] theorem State.returnFrame_pending (f : List Byte) (p : Purpose) : (s.returnFrame f p).pending = s.pending := by
  unfold State.returnFrame
  dsimp only
  (repeat' split) <;> simp

@[simp] theorem State.probeReturns_pending (map : BitVec 32) : (s.probeReturns map).pending = s.pending := by
  unfold State.probeReturns
  dsimp only
  split <;> split <;> rfl

@[simp] theorem State.strip_pending (f : List Byte) : (s.strip f).pending = s.pending := by
  unfold State.strip State.stripProbe
  (repeat' split) <;> simp

@[simp] theorem State.routeFrame_pending (f : List Byte) (sent : Nat) :
    (s.routeFrame f sent).pending = s.pending := by
  unfold State.routeFrame
  dsimp only
  (repeat' split) <;> simp

/-! ### The Framer and the deadlines -/

@[simp] theorem State.buildProbe_pending : s.buildProbe.pending = s.pending := by
  unfold State.buildProbe
  dsimp only
  rw [State.handOver_pending]
  split <;> simp

@[simp] theorem State.buildRequest_pending (i : SlotNo) (u : SlotUse) : (s.buildRequest i u).pending = s.pending := rfl

@[simp] theorem State.serveDue_pending (i : SlotNo) : (s.serveDue i).pending = s.pending := by
  unfold State.serveDue
  split
  · rfl
  · split <;> rfl

@[simp] theorem State.serveSweep_pending : s.serveSweep.pending = s.pending := by
  unfold State.serveSweep
  split <;> simp

@[simp] theorem State.choose_pending : s.choose.pending = s.pending := by
  unfold State.choose
  split
  · simp
  · split
    · rfl
    · split
      · simp
      · split
        · rfl
        · split
          · rfl
          · split
            · rfl
            · split <;> simp

@[simp] theorem State.buildPost_pending (line : Nat) : (s.buildPost line).pending = s.pending := by
  unfold State.buildPost
  dsimp only
  (repeat' split) <;> simp

@[simp] theorem State.freeUnfit_pending (i : SlotNo) (line : Nat) : (s.freeUnfit i line).pending = s.pending := by
  simp [State.freeUnfit]

@[simp] theorem State.buildMendResend_pending (i : SlotNo) (u : SlotUse) :
    (s.buildMendResend i u).pending = s.pending := by
  unfold State.buildMendResend
  dsimp only
  (repeat' split) <;> simp

@[simp] theorem State.buildReplacement_pending (i : SlotNo) (u : SlotUse) :
    (s.buildReplacement i u).pending = s.pending := by
  unfold State.buildReplacement
  dsimp only
  (repeat' split) <;> simp

@[simp] theorem State.buildAnswer_pending (line : Nat) (rest : List Nat) :
    (s.buildAnswer line rest).pending = s.pending := by
  unfold State.buildAnswer
  dsimp only
  (repeat' split) <;> simp

@[simp] theorem State.fetchSweep_pending (line : Nat) : (s.fetchSweep line).pending = s.pending := by
  unfold State.fetchSweep
  (repeat' split) <;> simp

@[simp] theorem State.updateDeadline_pending (i : SlotNo) (u : SlotUse) :
    (s.updateDeadline i u).pending = s.pending := by
  unfold State.updateDeadline
  dsimp only
  (repeat' split) <;> simp

end

/-- Every command ends in a next state: no meaning faults or refuses. -/
theorem exec_answers_next (c : Instr) (s : State) : ∃ t, exec c s = .next t := by
  cases c <;> exact ⟨_, rfl⟩

/-- The queue of commands is as it was. -/
def State.KeepsQueue (s t : State) : Prop := t.pending = s.pending

@[simp] theorem State.keepsQueue_iff {s t : State} : s.KeepsQueue t ↔ t.pending = s.pending := Iff.rfl

/-- No command touches the queue of commands. -/
theorem exec_meets_keepsQueue (c : Instr) (s : State) : Result.Meets (exec c s) s.KeepsQueue := by
  have hs : s.KeepsQueue s := rfl
  cases c
  case reset => exact Result.meets_next.2 rfl
  case resetRelease => exact Result.meets_next.2 s.releaseReset_pending
  case clearingPassClaim => exact Result.meets_next.2 s.clearLine_pending
  case replicaRead => simp only [exec, execReplicaRead, Result.meets_next]; split <;> simp
  case readClaimGranted u => exact execReadClaimGranted_meets hs u (fun _ _ => rfl) fun _ _ => by simp
  case replicaWrite => simp only [exec, execReplicaWrite, Result.meets_next]; split <;> simp
  case writeClaimGranted u => exact execWriteClaimGranted_meets hs u (fun _ _ => rfl) fun _ _ _ _ => by simp
  case configWrite => simp only [exec, execConfigWrite, Result.meets_next]; (repeat' split) <;> rfl
  case start => simp only [exec, execStart, Result.meets_next]; (repeat' split) <;> simp
  case leave => exact execLeave_meets hs _ rfl (by simp)
  case drain => simp only [exec, execDrain, Result.meets_next]; (repeat' split) <;> simp
  case watch => exact execWatch_meets hs _ rfl fun _ => rfl
  case unwatch => exact execUnwatch_meets hs _ rfl fun _ => rfl
  case query => exact execQuery_meets hs _ rfl fun _ => rfl
  case intenable => simp only [exec, execIntenable, Result.meets_next]; split <;> rfl
  case unknownCommand => simp only [exec, execUnknownCommand, Result.meets_next]; split <;> rfl
  case statusRead => simp only [exec, execStatusRead, Result.meets_next]; split <;> rfl
  case noticeRead => simp only [exec, execNoticeRead, Result.meets_next]; split <;> rfl
  case readOnlyWrite => simp only [exec, execReadOnlyWrite, Result.meets_next]; split <;> rfl
  case unassignedAccess => simp only [exec, execUnassignedAccess, Result.meets_next]; split <;> rfl
  case lholdDeasserted => simp only [exec, execLholdDeasserted, Result.meets_next]; split <;> rfl
  case holdBreak => simp only [exec, execHoldBreak, Result.meets_next]; split <;> simp
  case frameReceivedWhole => exact execFrameReceivedWhole_meets hs _ _ rfl (by simp)
  case receptionBrokenOff => simp only [exec, execReceptionBrokenOff, Result.meets_next]; split <;> rfl
  case carrierLost => exact execCarrierLost_meets hs rfl (by simp)
  case carrierRegained => simp only [exec, execCarrierRegained, Result.meets_next]; split <;> rfl
  case outputArbiterChoice => simp only [exec, execOutputArbiterChoice, Result.meets_next]; split <;> simp
  case insertionComplete => exact execInsertionComplete_meets hs fun _ _ => by simp
  case switchToActive => simp only [exec, execSwitchToActive, Result.meets_next]; split <;> rfl
  case switchToPassThrough => simp only [exec, execSwitchToPassThrough, Result.meets_next]; split <;> simp
  case framerChoice => exact execFramerChoice_meets hs s.choose_pending
  case postBuild u => exact execPostBuild_meets hs u fun _ _ => by simp
  case mendResendBuild u => exact execMendResendBuild_meets hs u rfl fun _ _ _ _ => by simp
  case replacementBuild u => exact execReplacementBuild_meets hs u rfl fun _ _ _ _ => by simp
  case answerBuild u => exact execAnswerBuild_meets hs u rfl fun _ _ _ _ => by simp
  case sweepRefreshFetch u => exact execSweepRefreshFetch_meets hs u fun _ => by simp
  case applyFull => exact execApplyFull_meets hs fun _ _ _ _ _ => by simp
  case applyDelta u => exact execApplyDelta_meets hs u fun _ _ _ _ _ => by simp
  case updateDeadline i => exact execUpdateDeadline_meets hs i fun _ _ _ _ _ => by simp
  case repairDeadline i => exact execRepairDeadline_meets hs i fun _ _ _ _ _ => by simp
  case probeLost => exact execProbeLost_meets hs fun _ => by simp
  case probeIntervalExpiry => simp only [exec, execProbeIntervalExpiry, Result.meets_next]; split <;> rfl
  case sweepTick => simp only [exec, execSweepTick, Result.meets_next]; split <;> rfl
  case frameInReceptionBegins => simp only [exec, execFrameInReceptionBegins, Result.meets_next]; (repeat' split) <;> rfl
  case passThroughRepeatBegins => simp only [exec, execPassThroughRepeatBegins, Result.meets_next]; split <;> rfl

/-! ## The tick of the Timebase -/

theorem mem_insertEvent {c e : Instr} {l : List Instr} {n : Nat} : c ∈ insertEvent e l n ↔ c = e ∨ c ∈ l := by
  induction l generalizing n with
  | nil => simp [insertEvent]
  | cons x xs ih =>
    cases n with
    | zero => simp [insertEvent]
    | succ n => simp [insertEvent, ih, or_left_comm]

/-- The open order of a tick holds the events that have been reached and no other (log 3). -/
theorem mem_inOpenOrder {c : Instr} {l : List Instr} {n : Nat} : c ∈ inOpenOrder l n ↔ c ∈ l := by
  induction l generalizing n with
  | nil => simp [inOpenOrder]
  | cons e es ih => simp [inOpenOrder, mem_insertEvent, ih]

theorem State.reached_iff (s : State) (t : Option Nat) : s.reached t = true ↔ ∃ d, t = some d ∧ d ≤ s.now := by
  cases t <;> simp [State.reached]

theorem State.mem_holdEvent {s : State} {c : Instr} :
    c ∈ s.holdEvent ↔ c = .holdBreak ∧ ∃ l b, s.hold = .held l b ∧ b ≤ s.now := by
  have hunheld (hh : ∀ l b, s.hold ≠ .held l b) :
      c ∈ ([] : List Instr) ↔ c = .holdBreak ∧ ∃ l b, s.hold = .held l b ∧ b ≤ s.now :=
    ⟨fun hc => absurd hc List.not_mem_nil, fun ⟨_, l, b, he, _⟩ => absurd he (hh l b)⟩
  unfold State.holdEvent
  split
  · next l b hh =>
    split
    · next hle =>
      rw [List.mem_singleton]
      exact ⟨fun hc => ⟨hc, l, b, hh, hle⟩, fun ⟨hc, _⟩ => hc⟩
    · next hle =>
      refine ⟨fun hc => absurd hc List.not_mem_nil, fun ⟨_, l', b', he, hle'⟩ => absurd hle' ?_⟩
      rw [hh] at he
      obtain ⟨-, rfl⟩ := Hold.held.inj he
      exact hle
  · next hh => exact hunheld fun _ _ he => nomatch hh.symm.trans he
  · next hh => exact hunheld fun _ _ he => nomatch hh.symm.trans he

theorem State.mem_slotEvent {s : State} {i : SlotNo} {c : Instr} :
    c ∈ s.slotEvent i ↔ ∃ u d, (s.slot i).use = some u ∧ u.deadline = some d ∧ d ≤ s.now
      ∧ c = (match u.purpose with | .update => Instr.updateDeadline i | .repair => Instr.repairDeadline i) := by
  unfold State.slotEvent
  split
  · next u hu =>
    by_cases hr : s.reached u.deadline = true
    · obtain ⟨d, hd, hle⟩ := (s.reached_iff u.deadline).1 hr
      rw [if_pos hr]
      cases hp : u.purpose <;> simp [hu, hd, hle, hp]
    · rw [if_neg hr]
      rw [State.reached_iff] at hr
      simp only [List.not_mem_nil, false_iff]
      rintro ⟨v, d, hv, hd, hle, -⟩
      rw [hu] at hv; cases hv
      exact hr ⟨d, hd, hle⟩
  · next hu => simp [hu]

/-- An event that has one time joins when that time has been reached. -/
theorem State.mem_eventAt {s : State} {c e : Instr} {t : Option Nat} :
    c ∈ (if s.reached t then [e] else []) ↔ c = e ∧ ∃ d, t = some d ∧ d ≤ s.now := by
  rw [← State.reached_iff]
  split
  · next hr => rw [List.mem_singleton, and_iff_left hr]
  · next hr => exact ⟨fun hc => absurd hc List.not_mem_nil, fun ⟨_, h⟩ => absurd h hr⟩

/-- The timed events that have been reached (R80, R119, R160, R164, R183). -/
theorem State.mem_timedEvents {s : State} {c : Instr} :
    c ∈ s.timedEvents ↔
      (c = .holdBreak ∧ ∃ l b, s.hold = .held l b ∧ b ≤ s.now)
      ∨ (∃ i u d, (s.slot i).use = some u ∧ u.deadline = some d ∧ d ≤ s.now
          ∧ c = (match u.purpose with | .update => Instr.updateDeadline i | .repair => Instr.repairDeadline i))
      ∨ (c = .probeLost ∧ ∃ p d, s.probe.outstanding = some p ∧ p.deadline = some d ∧ d ≤ s.now)
      ∨ (c = .probeIntervalExpiry ∧ ∃ d, s.probe.timer = some d ∧ d ≤ s.now)
      ∨ (c = .sweepTick ∧ ∃ d, s.sweep.timer = some d ∧ d ≤ s.now) := by
  have hslots : c ∈ allSlots.flatMap s.slotEvent ↔ ∃ i, c ∈ s.slotEvent i := by
    simp [List.mem_flatMap, mem_allSlots]
  have hprobe : (∃ d, s.probe.outstanding.bind OutstandingProbe.deadline = some d ∧ d ≤ s.now)
      ↔ ∃ p d, s.probe.outstanding = some p ∧ p.deadline = some d ∧ d ≤ s.now := by
    cases s.probe.outstanding <;> simp
  simp only [State.timedEvents, List.mem_append, hslots, State.mem_holdEvent, State.mem_slotEvent, State.mem_eventAt,
    hprobe, or_assoc]

/-- Settles O2: a command keeps the queue, and a tick puts in it the events that the next microsecond reaches. -/
theorem everyStepAnswersNext : Obligations.EveryStepAnswersNext := by
  unfold Obligations.EveryStepAnswersNext
  refine ⟨fun c s => ?_, fun s hempty => ⟨s.tick, by rw [step, hempty], rfl, fun c => ?_⟩⟩
  · obtain ⟨t, ht⟩ := exec_answers_next c s
    exact ⟨t, ht, exec_meets_keepsQueue c s t ht⟩
  · exact mem_inOpenOrder.trans (State.mem_timedEvents (s := { s with now := s.now + 1 }))

end Sys2Proof.Machine

/-! # Repair of stale and suspect lines: what a check failure does, and the decision on a REQUEST

The statements of the family 05_repair_of_stale_and_suspect_lines. A check failure is described once against the words of the
statements (`State.checkFailure_fails`, `State.checkFailure_gives`), and a frame of a peer that is acted on once for every kind
(`exec_frameReceivedWhole_of_act`, `State.enterFifo_forwards`). -/

namespace Sys2Proof.Machine

/-! ## The check failure of a granted read -/

/-- A check failure moves the record of its line alone, and the two lists that follow the record (R97 to R100). -/
theorem State.checkFailure_fails (s : State) (line : Nat) : FailsCheck s (s.checkFailure line) line :=
  ⟨⟨s.checkFailure_rec line, fun _ hk => s.lineRec_checkFailure_other hk⟩,
    s.checkFailure_repairList line, s.checkFailure_postList line⟩

/-- The notices of a check failure are those of the post it withdraws (R99 to R101). -/
theorem State.checkFailure_gives (s : State) (line : Nat) :
    (s.checkFailure line).notices = noticesAfter s.notices (lostNotice s line) := by
  rw [State.checkFailure_notices]
  unfold lostNotice
  split <;> rfl

/-- Storage faults change no record and no list, so a check failure is the same seen from the state before them. -/
@[simp] theorem failsCheck_strike {s t : State} (line : Nat) (u : Option Upset) (l : Nat) :
    FailsCheck (s.strike line u) t l ↔ FailsCheck s t l := by
  simp [FailsCheck, OnlyRecord, failedRecord, FailureLists]

@[simp] theorem givesAndDrains_strike {s t : State} (line : Nat) (u : Option Upset) (ns : List Notice) :
    GivesAndDrains (s.strike line u) t ns ↔ GivesAndDrains s t ns := by
  simp [GivesAndDrains]

@[simp] theorem lostNotice_strike (s : State) (line : Nat) (u : Option Upset) (l : Nat) :
    lostNotice (s.strike line u) l = lostNotice s l := by
  simp [lostNotice]

/-- A read that finds a failing check: the effects of the failure, LERR, then the test of the drain (R97, R174, R195). -/
theorem State.readWord_of_bad {s : State} {la : BitVec 15} (h : s.checkGood (lineOf la) = false) :
    s.readWord la = ((s.checkFailure (lineOf la)).fail .read).drainTest := by
  simp [State.readWord, h]

/-- What a read that finds a failing check leaves (R97 to R102, R195). -/
theorem State.readWord_fails {s : State} {la : BitVec 15} (h : s.checkGood (lineOf la) = false) :
    s.readWord la =
        { s with
          access := none, completion := some ⟨false, some 0⟩
          lines := (s.readWord la).lines, repairList := (s.readWord la).repairList
          postList := (s.readWord la).postList, notices := (s.readWord la).notices
          drainPending := (s.readWord la).drainPending }
      ∧ FailsCheck s (s.readWord la) (lineOf la) ∧ GivesAndDrains s (s.readWord la) (lostNotice s (lineOf la))
      ∧ SameBytes s (s.readWord la) := by
  have hfails := s.checkFailure_fails (lineOf la)
  have hgives := s.checkFailure_gives (lineOf la)
  rw [State.readWord_of_bad h]
  refine ⟨?_, ?_, givesAndDrains_drainTest ?_ ?_, fun x => ?_⟩
  · rw [State.drainTest_lines, State.drainTest_repairList, State.drainTest_postList]
    refine (State.drainTest_frame _).trans ?_
    generalize ((s.checkFailure (lineOf la)).fail .read).drainTest = t
    rw [State.checkFailure_frame]
    rfl
  · simpa [FailsCheck, OnlyRecord, FailureLists, State.fail] using hfails
  · simpa [State.fail] using hgives
  · simp [State.fail]
  · simp [State.fail]

/-- Settles O9: the granted read verifies the struck line, whose records and lists are those of the state before. -/
theorem grantedReadThatFailsItsCheck : Obligations.GrantedReadThatFailsItsCheck := by
  unfold Obligations.GrantedReadThatFailsItsCheck
  intro s a u hacts hkind hbad
  have hexec : exec (.readClaimGranted u) s = .next (((s.strike (lineOf a.la) u).bindHold a).readWord a.la) :=
    execReadClaimGranted_of_acts u hacts hkind
  have hhold : holdAtGrant (s.strike (lineOf a.la) u) a = holdAtGrant s a := by simp [holdAtGrant]
  rw [State.bindHold_eq, hhold] at hexec
  obtain ⟨hframe, hfails, hgives, hbytes⟩ :=
    State.readWord_fails (s := { s.strike (lineOf a.la) u with hold := holdAtGrant s a }) hbad
  refine ⟨_, hexec, hframe, (failsCheck_strike (lineOf a.la) u _).1 hfails, ?_, hbytes⟩
  rw [← lostNotice_strike s (lineOf a.la) u]
  exact (givesAndDrains_strike (lineOf a.la) u _).1 hgives

/-! ## A peer's frame that is acted on, and its forwarded copy -/

/-- A peer's frame is acted on once the reception has ended, and its copy is offered to the Bypass FIFO (R135, R143). -/
theorem exec_frameReceivedWhole_of_act {s : State} {f : List Byte} (sent : Nat) (h : ToActOn s f) :
    exec (.frameReceivedWhole f sent) s =
      .next ((s.endReception.act f).1.enterFifo (Frame.forwarded f (s.endReception.act f).2) sent) := by
  obtain ⟨hreceives, hreceiving, hlength, hgood, hform, horigin, hbudget⟩ := h
  have hrest : Frame.budget f ≠ 0#8 := hbudget
  simp [exec, execFrameReceivedWhole, State.routeFrame, State.endReception, hreceives, hreceiving, hlength, hgood, hform,
    horigin, hrest]

/-- A frame whose check is good has at least 8 bytes (R131). -/
theorem Frame.length_of_checkGood {f : List Byte} (h : Frame.checkGood f = true) : 8 ≤ f.length := by
  unfold Frame.checkGood at h
  exact of_decide_eq_true (Bool.and_eq_true_iff.1 h).1

/-- A copy with no presence mark has the length of its frame: its two bytes of CRC replace two (R141, R142). -/
theorem Frame.length_forwarded_of_noPresence {f : List Byte} {m : Marks} (hf : 2 ≤ f.length) (hm : m.presence = none) :
    (Frame.forwarded f m).length = f.length := by
  simp only [Frame.forwarded, hm, Frame.seal, Frame.halfBytes, List.length_append, List.length_set, List.length_take,
    List.length_cons, List.length_nil]
  omega

theorem State.progress_frame (s : State) (sent : Nat) :
    s.progress sent = { s with sending := (s.progress sent).sending } := by
  unfold State.progress
  split <;> rfl

/-- What ring-out has sent of the head depends on the head and on what is being sent alone (R143). -/
theorem State.progress_sending_congr {s t : State} (hf : t.fifo = s.fifo) (hs : t.sending = s.sending) (sent : Nat) :
    (t.progress sent).sending = (s.progress sent).sending := by
  unfold State.progress
  rw [hf, hs]
  split
  · rfl
  · exact hs

/-- The Bypass FIFO and what ring-out sends are all that a copy offered to it changes (R143). -/
theorem State.enterFifo_frame (s : State) (copy : List Byte) (sent : Nat) :
    s.enterFifo copy sent =
      { s with fifo := (s.enterFifo copy sent).fifo, sending := (s.enterFifo copy sent).sending } := by
  unfold State.enterFifo
  rw [State.progress_frame]
  dsimp only
  split <;> rfl

/-- A copy of a frame's length is forwarded as R143 says, whatever the action on the frame changed beside the FIFO. -/
theorem State.enterFifo_forwards {s t : State} {f : List Byte} {m : Marks} (hf : t.fifo = s.fifo)
    (hs : t.sending = s.sending) (hlen : (Frame.forwarded f m).length = f.length) (sent : Nat) :
    ForwardsCopy s (t.enterFifo (Frame.forwarded f m) sent) f m sent := by
  have hsending := State.progress_sending_congr hf hs sent
  have hfifo : (t.progress sent).fifo = s.fifo := by rw [State.progress_frame]; exact hf
  have hbytes : (t.progress sent).fifoBytes = (s.progress sent).fifoBytes := by
    have : (s.progress sent).fifo = s.fifo := by rw [State.progress_frame]
    simp only [State.fifoBytes, hfifo, hsending, this]
  unfold ForwardsCopy State.enterFifo
  simp only [hbytes, hlen]
  split
  · exact ⟨congrArg (· ++ [Frame.forwarded f m]) hfifo, hsending⟩
  · exact ⟨hfifo, hsending⟩

/-! ## The decision on a REQUEST -/

/-- At or above a stamp is not below it, since the order of stamps is total (R5). -/
theorem Stamp.atLeast_iff_not_newer (a b : Stamp) : a.atLeast b = true ↔ b.newer a = false := by
  rw [Stamp.atLeast_iff]
  constructor
  · rintro (rfl | h)
    · exact Stamp.newer_irrefl a
    · exact Stamp.newer_asymm h
  · intro h
    by_cases heq : a = b
    · exact .inl heq
    · exact .inr ((Stamp.newer_total heq).resolve_right (by simp [h]))

/-- A record lets a REQUEST be answered when it is VALID with no apply pending and holds no post (R73, R109). -/
theorem LineRecord.answerable_iff (r : LineRecord) :
    r.answerable = true ↔ r.content = .valid ∧ r.applyPending = false ∧ r.pending.post = none := by
  unfold LineRecord.answerable
  cases r.pending <;> simp [Pending.post]

/-- The conditions under which a REQUEST is taken (R109, R111). -/
theorem State.takesRequest_iff (s : State) (line : Nat) (stamp : Stamp) :
    s.takesRequest line stamp = true ↔
      s.station = .online ∧ (s.lineRec line).content = .valid ∧ (s.lineRec line).applyPending = false
        ∧ (s.lineRec line).pending.post = none ∧ stamp.newer (s.lineRec line).stamp = false
        ∧ (line ∈ s.answerQueue ∨ s.answerQueue.length < 4) := by
  simp [State.takesRequest, LineRecord.answerable_iff, Stamp.atLeast_iff_not_newer, and_assoc]

/-- The line of a REQUEST that is taken is in the Answer Queue once (R109, R111). -/
theorem State.decideRequest_of_taken {s : State} {line : Nat} {stamp : Stamp} (h : s.takesRequest line stamp = true) :
    s.decideRequest line stamp =
      ({ s with answerQueue := if line ∈ s.answerQueue then s.answerQueue else s.answerQueue ++ [line] }, true) := by
  simp only [State.decideRequest, h, if_true, List.contains_iff_mem]
  split <;> rfl

/-- A REQUEST that is not taken has no effect (R110). -/
theorem State.decideRequest_of_passedOn {s : State} {line : Nat} {stamp : Stamp}
    (h : ¬ s.takesRequest line stamp = true) : s.decideRequest line stamp = (s, false) := by
  rw [State.decideRequest, if_neg h]

/-- A REQUEST for a line within the window that arrives unanswered is decided on (R108). -/
theorem State.act_of_request {s : State} {f : List Byte} (hk : Frame.kind f = .request)
    (hanswered : Frame.answered f = false) (hwindow : s.inWindow (Frame.line f) = true) :
    s.act f =
      ((s.decideRequest (Frame.line f) (Frame.stamp f)).1,
        ⟨false, (s.decideRequest (Frame.line f) (Frame.stamp f)).2, none⟩) := by
  simp [State.act, hk, hanswered, hwindow]

/-- Settles O29: the cases are those of the decision, and the copy is forwarded in both. -/
theorem requestIsTakenOrPassedOn : Obligations.RequestIsTakenOrPassedOn := by
  unfold Obligations.RequestIsTakenOrPassedOn
  intro s f sent hact hkind hanswered hwindow
  have hexec := exec_frameReceivedWhole_of_act sent hact
  have hdecide := State.act_of_request (s := s.endReception) hkind hanswered hwindow
  have htakes := s.endReception.takesRequest_iff (Frame.line f) (Frame.stamp f)
  obtain ⟨-, -, -, hgood, -⟩ := hact
  have hlen (answered : Bool) : (Frame.forwarded f ⟨false, answered, none⟩).length = f.length :=
    Frame.length_forwarded_of_noPresence (by have := Frame.length_of_checkGood hgood; omega) rfl
  refine ⟨_, hexec, ?_⟩
  rw [hdecide]
  split
  · next htaken =>
    rw [State.decideRequest_of_taken (htakes.2 htaken)]
    dsimp only
    exact ⟨State.enterFifo_frame _ _ sent, State.enterFifo_forwards (by rfl) (by rfl) (hlen true) sent⟩
  · next hpassed =>
    rw [State.decideRequest_of_passedOn fun h => hpassed (htakes.1 h)]
    dsimp only
    exact ⟨State.enterFifo_frame _ _ sent, State.enterFifo_forwards (by rfl) (by rfl) (hlen false) sent⟩

end Sys2Proof.Machine

/-! # The Sweep: what a step at the pointer does to its line

The statement of the family 06_the_sweep. That a source of the Framer has nothing ready is tied to the words of the statements
once for each source, so that the choice of the sweep is one lemma (`State.choose_of_sweep`); the case that the model finds is
the case of R122's table (`State.sweepCase_eq_refresh_iff`, `State.sweepCase_eq_listing_iff`). The fetch is described for the
state it verifies, and the storage faults before it change nothing that the statement speaks of but the bytes. -/

namespace Sys2Proof.Machine

section

variable {s : State}

/-! ## The sources of higher precedence -/

/-- No slot's transmission has become due first where none is due (R59). -/
theorem State.firstDue_of_noneDue (h : NoneDue s) : s.firstDue = none := by
  have hnone (i : SlotNo) : s.dueOrder i = none := by
    unfold State.dueOrder
    cases hu : (s.slot i).use with
    | none => rfl
    | some u => simp [h i u hu]
  refine List.foldlRecOn (motive := (· = none)) allSlots _ rfl fun best hbest i _ => ?_
  subst hbest
  rw [hnone]

/-- A writer is outside the membership map when it is none, or its bit is clear (R167). -/
theorem State.isMember_eq_false_iff {w : Option Byte} :
    s.isMember w = false ↔ ∀ n, w = some n → s.membership.getLsbD n.toNat = false := by
  cases w <;> simp [State.isMember]

/-- The eligible lines are those that may be asked for (R105). -/
theorem State.eligible_iff_mayAsk {e : RepairEntry} : s.eligible e = true ↔ MayAsk s e := by
  unfold State.eligible MayAsk
  cases hcontent : (s.lineRec e.line).content with
  | valid => simp [hcontent]
  | suspect => simp [hcontent]
  | stale => simp [hcontent, State.isMember_eq_false_iff]

/-- The lines that the repair request source serves are those not asked for yet (R59). -/
theorem State.serves_iff_unasked {e : RepairEntry} :
    (s.eligible e && !s.hasRepairSlot e.line) = true ↔ Unasked s e := by
  simp [Unasked, State.eligible_iff_mayAsk, State.hasRepairSlot, mem_allSlots]

/-- The repair request source is not ready when it finds no line or no slot (R59, R61). -/
theorem State.noRequestReady_iff : NoRequestReady s ↔ s.repairLine = none ∨ s.lowestFree = none := by
  rw [State.lowestFree_eq_none, State.repairLine, Option.map_eq_none_iff, List.find?_eq_none]
  simp only [State.serves_iff_unasked]
  rfl

theorem Pending.isPosted_iff {p : Pending} : p.isPosted = true ↔ ∃ q, p = .posted q := by
  cases p <;> simp [Pending.isPosted]

/-- An UPDATE allocation finds no slot when 14 are in use for updates or none is free (R61). -/
theorem State.updateSlotFor_eq_none : s.updateSlotFor = none ↔ 14 ≤ s.updateSlots ∨ NoneFree s := by
  unfold State.updateSlotFor
  split
  · next h => simp [State.lowestFree_eq_none, NoneFree, Nat.not_le.2 h]
  · next h => simp [Nat.not_lt.1 h]

/-- The post source is not ready when it finds no POSTED line or no slot (R56, R59, R61). -/
theorem State.noPostReady_iff : NoPostReady s ↔ s.oldestPost = none ∨ s.updateSlotFor = none := by
  rw [State.updateSlotFor_eq_none, State.oldestPost, List.find?_eq_none]
  simp only [Pending.isPosted_iff]
  rfl

/-- The sweep is chosen when it is owed a step and no other source is ready (R58, R59). -/
theorem State.choose_of_sweep (hchooses : ChoosesPastProbe s) (hdue : NoneDue s) (hanswers : s.answerQueue = [])
    (hrequest : NoRequestReady s) (hpost : NoPostReady s) (hsweep : s.sweep.due = true) : s.choose = s.serveSweep := by
  obtain ⟨-, -, honline, hprobe⟩ := hchooses
  simp only [State.choose, State.probeReady, hprobe, honline, State.firstDue_of_noneDue hdue, hanswers, hsweep]
  obtain hline | hslot := State.noRequestReady_iff.1 hrequest
  · obtain hp | hp := State.noPostReady_iff.1 hpost <;> simp [hline, hp]
  · obtain hp | hp := State.noPostReady_iff.1 hpost <;> simp [hslot, hp]

/-- With the place empty and no build under way the Framer chooses (R57). -/
theorem exec_framerChoice_of_chooses (h : ChoosesPastProbe s) : exec .framerChoice s = .next s.choose := by
  obtain ⟨hplace, hbuild, -, -⟩ := h
  simp [exec, execFramerChoice, hplace, hbuild]

/-! ## The case of the line at the pointer -/

/-- The refresh case of R122's table. -/
theorem State.sweepCase_eq_refresh_iff {line : Nat} : s.sweepCase line = .refresh ↔ RefreshCase s line := by
  unfold State.sweepCase RefreshCase
  cases hcontent : (s.lineRec line).content with
  | valid => simp [hcontent, and_left_comm, and_comm]
  | stale =>
    simp only [hcontent, reduceCtorEq, false_and, iff_false]
    split <;> exact SweepCase.noConfusion
  | suspect =>
    simp only [hcontent, reduceCtorEq, false_and, iff_false]
    split <;> exact SweepCase.noConfusion

/-- The listing case of R122's table. -/
theorem State.sweepCase_eq_listing_iff {line : Nat} : s.sweepCase line = .listing ↔ ListingCase s line := by
  unfold State.sweepCase ListingCase
  cases hcontent : (s.lineRec line).content with
  | valid =>
    simp only [hcontent, ne_eq, not_true_eq_false, false_and, iff_false]
    split <;> exact SweepCase.noConfusion
  | stale => simp [hcontent]
  | suspect => simp [hcontent]

/-- Any other line is left alone (R122). -/
theorem State.sweepCase_of_neither {line : Nat} (hrefresh : ¬ RefreshCase s line) (hlisting : ¬ ListingCase s line) :
    s.sweepCase line = .noAction := by
  cases hcase : s.sweepCase line with
  | refresh => exact absurd (State.sweepCase_eq_refresh_iff.1 hcase) hrefresh
  | listing => exact absurd (State.sweepCase_eq_listing_iff.1 hcase) hlisting
  | noAction => rfl

/-! ## What a step does -/

/-- The end of a step moves the Sweep Unit on and changes nothing else (R121, R126). -/
theorem State.endSweepStep_eq (s : State) : s.endSweepStep = { s with sweep := sweptOn s } := rfl

/-- In the listing case the line joins the tail of the Repair List and takes its mark (R125). -/
theorem State.listLine_of_listingCase {line : Nat} (h : ListingCase s line) :
    s.listLine line =
        { s with lines := (s.listLine line).lines, repairList := s.repairList ++ [⟨line, s.now⟩] }
      ∧ OnlyRecord s (s.listLine line) line { s.lineRec line with listed := true } := by
  obtain ⟨-, hlisted, hroom⟩ := h
  refine ⟨?_, ?_, fun k hk => s.lineRec_listLine_other hk⟩
  · rw [State.listLine_of_room s line hlisted hroom]
    rfl
  · rw [State.listLine_rec]
    simp [hroom]

/-! ## The choice of a step -/

/-- The choice that finds the refresh case waits for its fetch (R121). -/
theorem State.serveSweep_awaitsFetch (h : RefreshCase s s.sweep.pointer) :
    s.serveSweep = { s with build := some .sweep } := by
  rw [State.serveSweep, State.sweepCase_eq_refresh_iff.2 h]

/-- The choice that finds the listing case lists the line and ends the step (R121, R125). -/
theorem State.serveSweep_lists (h : ListingCase s s.sweep.pointer) :
    s.serveSweep =
        { s with
          lines := s.serveSweep.lines, repairList := s.repairList ++ [⟨s.sweep.pointer, s.now⟩], sweep := sweptOn s }
      ∧ OnlyRecord s s.serveSweep s.sweep.pointer { s.lineRec s.sweep.pointer with listed := true } := by
  have hstep : s.serveSweep = (s.listLine s.sweep.pointer).endSweepStep := by
    rw [State.serveSweep, State.sweepCase_eq_listing_iff.2 h]
  obtain ⟨hlists, hrecord⟩ := State.listLine_of_listingCase h
  rw [hstep]
  refine ⟨?_, hrecord⟩
  rw [State.endSweepStep_lines, State.endSweepStep_eq, hlists]
  rfl

/-- The choice that finds any other line ends the step (R121, R122). -/
theorem State.serveSweep_passes (hrefresh : ¬ RefreshCase s s.sweep.pointer) (hlisting : ¬ ListingCase s s.sweep.pointer) :
    s.serveSweep = { s with sweep := sweptOn s } := by
  rw [State.serveSweep, State.sweepCase_of_neither hrefresh hlisting]
  rfl

/-! ## The fetch of a step -/

/-- A granted fetch verifies the struck line at the pointer and finds its case (R121). -/
theorem exec_sweepRefreshFetch_of_granted (u : Option Upset) (h : FetchGranted s .sweep) :
    exec (.sweepRefreshFetch u) s = .next ((s.strike s.sweep.pointer u).fetchSweep s.sweep.pointer) := by
  obtain ⟨hbuild, hgrant⟩ := h
  simp [exec, execSweepRefreshFetch, hbuild, hgrant]

/-- A fetch that finds a failing check: the effects of the failure, the end of the step, then the test of the drain (R74, R97,
R122, R195). -/
theorem State.fetchSweep_of_bad {line : Nat} (h : s.checkGood line = false) :
    s.fetchSweep line = (s.checkFailure line).abandonBuild.endSweepStep.drainTest := by
  simp [State.fetchSweep, h]

/-- What a fetch that finds a failing check leaves (R97 to R102, R195). -/
theorem State.fetchSweep_fails {line : Nat} (h : s.checkGood line = false) :
    s.fetchSweep line =
        { s with
          lines := (s.fetchSweep line).lines, repairList := (s.fetchSweep line).repairList
          postList := (s.fetchSweep line).postList, build := none, sweep := sweptOn s
          notices := (s.fetchSweep line).notices, drainPending := (s.fetchSweep line).drainPending }
      ∧ FailsCheck s (s.fetchSweep line) line ∧ GivesAndDrains s (s.fetchSweep line) (lostNotice s line)
      ∧ SameBytes s (s.fetchSweep line) := by
  have hfails := s.checkFailure_fails line
  have hgives := s.checkFailure_gives line
  rw [State.fetchSweep_of_bad h]
  refine ⟨?_, ?_, givesAndDrains_drainTest ?_ ?_, fun x => ?_⟩
  · rw [State.drainTest_lines, State.drainTest_repairList, State.drainTest_postList]
    refine (State.drainTest_frame _).trans ?_
    generalize (s.checkFailure line).abandonBuild.endSweepStep.drainTest = t
    rw [State.checkFailure_frame]
    rfl
  · simpa [FailsCheck, OnlyRecord, FailureLists] using hfails
  · simpa using hgives
  · simp
  · simp

/-- The fetch that finds the listing case lists the line and ends the step (R122, R125). -/
theorem State.fetchSweep_lists {line : Nat} (h : s.checkGood line = true) (hcase : ListingCase s line) :
    s.fetchSweep line =
        { s with
          lines := (s.fetchSweep line).lines, repairList := s.repairList ++ [⟨line, s.now⟩], build := none
          sweep := sweptOn s }
      ∧ OnlyRecord s (s.fetchSweep line) line { s.lineRec line with listed := true } := by
  have hstep : s.fetchSweep line = (s.listLine line).abandonBuild.endSweepStep := by
    simp [State.fetchSweep, h, State.sweepCase_eq_listing_iff.2 hcase]
  obtain ⟨hlists, hrecord⟩ := State.listLine_of_listingCase hcase
  rw [hstep]
  refine ⟨?_, hrecord⟩
  rw [State.endSweepStep_lines, State.endSweepStep_eq, State.abandonBuild_lines, hlists]
  rfl

/-- The fetch that finds the refresh case hands the refresh over and ends the step (R122, R123). -/
theorem State.fetchSweep_refreshes {line : Nat} (h : s.checkGood line = true) (hcase : RefreshCase s line) :
    s.fetchSweep line =
      { s with build := none, sweep := sweptOn s, place := some (ownFull s true 0 line (s.lineRec line).stamp) } := by
  simp only [State.fetchSweep, h, State.sweepCase_eq_refresh_iff.2 hcase]
  rfl

/-- The fetch that finds any other line ends the step (R122). -/
theorem State.fetchSweep_passes {line : Nat} (h : s.checkGood line = true) (hrefresh : ¬ RefreshCase s line)
    (hlisting : ¬ ListingCase s line) : s.fetchSweep line = { s with build := none, sweep := sweptOn s } := by
  simp only [State.fetchSweep, h, State.sweepCase_of_neither hrefresh hlisting]
  rfl

/-! Storage faults change neither the records nor the Sweep Unit, so the fetch finds the case of the state before them. -/

@[simp] theorem refreshCase_strike (line : Nat) (u : Option Upset) (l : Nat) :
    RefreshCase (s.strike line u) l ↔ RefreshCase s l := by
  simp [RefreshCase]

@[simp] theorem listingCase_strike (line : Nat) (u : Option Upset) (l : Nat) :
    ListingCase (s.strike line u) l ↔ ListingCase s l := by
  simp [ListingCase]

@[simp] theorem onlyRecord_strike {t : State} (line : Nat) (u : Option Upset) (l : Nat) (r : LineRecord) :
    OnlyRecord (s.strike line u) t l r ↔ OnlyRecord s t l r := by
  simp [OnlyRecord]

@[simp] theorem sweptOn_strike (line : Nat) (u : Option Upset) : sweptOn (s.strike line u) = sweptOn s := by
  simp [sweptOn]

end

/-! ## The step at the pointer -/

/-- Settles O47: the choice comes to the sweep past the sources that are not ready; the fetch verifies the struck line, whose
record, lists and pointer are those of the state before. -/
theorem sweepStepRefreshesListsOrPasses : Obligations.SweepStepRefreshesListsOrPasses := by
  unfold Obligations.SweepStepRefreshesListsOrPasses
  constructor
  case left =>
    intro s hchooses hdue hanswers hrequest hpost hsweep
    rw [exec_framerChoice_of_chooses hchooses, State.choose_of_sweep hchooses hdue hanswers hrequest hpost hsweep]
    refine ⟨fun hcase => ?_, fun hcase => ⟨_, rfl, State.serveSweep_lists hcase⟩, fun hrefresh hlisting => ?_⟩
    · rw [State.serveSweep_awaitsFetch hcase]
    · rw [State.serveSweep_passes hrefresh hlisting]
  case right =>
    intro s u hgranted l v
    have hswept : sweptOn v = sweptOn s := sweptOn_strike l u
    rw [exec_sweepRefreshFetch_of_granted u hgranted]
    refine ⟨fun hbad => ?_, fun hgood hcase => ?_, fun hgood hcase => ?_, fun hgood hrefresh hlisting => ?_⟩
    · obtain ⟨hframe, hfails, hgives, hbytes⟩ := State.fetchSweep_fails hbad
      rw [hswept] at hframe
      rw [lostNotice_strike] at hgives
      exact ⟨_, rfl, hframe, (failsCheck_strike l u l).1 hfails, (givesAndDrains_strike l u _).1 hgives, hbytes⟩
    · rw [State.fetchSweep_refreshes hgood ((refreshCase_strike l u l).2 hcase), hswept, State.strike_lineRec]
    · obtain ⟨hframe, hrecord⟩ := State.fetchSweep_lists hgood ((listingCase_strike l u l).2 hcase)
      have hlist : v.repairList ++ [⟨l, v.now⟩] = s.repairList ++ [⟨l, s.now⟩] := by simp [v]
      rw [hswept, hlist] at hframe
      rw [State.strike_lineRec] at hrecord
      exact ⟨_, rfl, hframe, (onlyRecord_strike l u l _).1 hrecord⟩
    · rw [State.fetchSweep_passes hgood (mt (refreshCase_strike l u l).1 hrefresh)
        (mt (listingCase_strike l u l).1 hlisting), hswept]

end Sys2Proof.Machine

/-! # The local port: replica reads taken, the line hold, the control window

The statements of the family 09_the_local_port. A word of the control window is its fields joined (`fieldAt`), and a field reads
back whole at its own bits; the accesses are followed by the rules of their courses. -/

namespace Sys2Proof.Machine

/-! ## The access that the port takes -/

theorem PortTakes.portFree {s : State} (h : PortTakes s) : s.portFree = true := by
  simp [State.portFree, h.1, h.2]

/-- Sampling LHOLD touches the hold record alone (R182, R184). -/
theorem State.sampleHold_frame (s : State) (lhold noByte : Bool) :
    s.sampleHold lhold noByte = { s with hold := (s.sampleHold lhold noByte).hold } := by
  unfold State.sampleHold
  split
  · rfl
  · split
    · split <;> rfl
    · rfl
    · rfl

/-- LHOLD deasserted with an access that has a byte to read or write leaves the record FREE (R182, R184). -/
theorem State.sampleHold_hold (s : State) (lhold : Bool) :
    (s.sampleHold lhold false).hold = if lhold = true then s.hold else .free := by
  cases lhold with
  | true => rfl
  | false =>
    simp only [State.sampleHold, State.freeHold, Bool.false_eq_true, if_false]
    split
    · rfl
    · rfl
    · next h => exact h

@[simp] theorem State.sampleHold_clearingShown (s : State) (lhold noByte : Bool) :
    (s.sampleHold lhold noByte).clearingShown = s.clearingShown := by
  rw [State.sampleHold_frame]; rfl

@[simp] theorem State.sampleHold_notices (s : State) (lhold noByte : Bool) :
    (s.sampleHold lhold noByte).notices = s.notices := by
  rw [State.sampleHold_frame]

/-- The course of an access asks the state before it for nothing of the hold. -/
@[simp] theorem takenBySteps_sampleHold {s t : State} {a : Access} (lhold noByte : Bool) :
    TakenBySteps (s.sampleHold lhold noByte) t a ↔ TakenBySteps s t a := by
  rw [State.sampleHold_frame]; rfl

@[simp] theorem State.takeAccess_hold (s : State) (a : Access) : (s.takeAccess a).hold = s.hold := by
  rw [State.takeAccess_frame]

/-- No read gives a notice in the step that takes it (R174). -/
theorem State.takeAccess_notices_of_read (s : State) (a : Access) (hk : a.kind = .read) :
    (s.takeAccess a).notices = s.notices := by
  simp only [State.takeAccess, hk, State.admitAccess_read s a hk]
  (repeat' split) <;> rfl

/-- A read is taken once LHOLD has been sampled; the phase it is presented in plays no part in its course (R172, R174, R182). -/
theorem exec_replicaRead_of_portTakes {s : State} (la : BitVec 15) (lhold : Bool) (h : PortTakes s) :
    exec (.replicaRead la lhold) s =
      .next ((s.sampleHold lhold false).takeAccess ⟨.read, la, lhold, .clearing⟩) := by
  simp only [exec, execReplicaRead, h.portFree, if_true]
  rfl

/-- Settles O6: LHOLD is sampled first, and the access then waits for CLEARING or goes its course. -/
theorem replicaReadIsTakenByItsSteps : Obligations.ReplicaReadIsTakenByItsSteps := by
  unfold Obligations.ReplicaReadIsTakenByItsSteps
  intro s la lhold hport
  have hhold := (s.sampleHold lhold false).takeAccess_hold ⟨.read, la, lhold, .clearing⟩
  have hnotices := (s.sampleHold lhold false).takeAccess_notices_of_read ⟨.read, la, lhold, .clearing⟩ rfl
  refine ⟨_, exec_replicaRead_of_portTakes la lhold hport, ?_, ?_, fun hshown => ?_, fun hshown => ?_⟩
  · refine (State.takeAccess_frame _ _).trans ?_
    rw [hhold, hnotices]
    generalize (s.sampleHold lhold false).takeAccess _ = t
    rw [State.sampleHold_frame]
  · rw [hhold, State.sampleHold_hold]
  · rw [State.takeAccess_of_clearing _ _ (by simpa using hshown)]
    exact ⟨rfl, rfl, s.sampleHold_notices lhold false⟩
  · exact (takenBySteps_sampleHold lhold false).1 (State.takeAccess_takenBySteps _ _ (by simpa using hshown))

/-! ## The line hold -/

/-- The state at the break of a hold, but for the access that waits (R183, R184). -/
def State.breakHold (s : State) (line breakTime : Nat) : State :=
  { s with
    now := max s.now breakTime, hold := .broken line, notices := noticesAfter s.notices [.holdBroken line] }

theorem exec_holdBreak_of_held {s : State} {l b : Nat} (h : s.hold = .held l b) :
    exec .holdBreak s = .next (s.breakHold l b).failWaiting := by
  simp only [exec, execHoldBreak, h]
  rfl

/-- A break returns a waiting read that carries LHOLD to step 3, where it fails (R183, R185). -/
theorem State.failWaiting_of_read {s : State} {la : BitVec 15} (h : s.access = some ⟨.read, la, true, .apply⟩) :
    s.failWaiting = s.fail .read := by
  simp [State.failWaiting, h]

/-- A break returns a waiting write that carries LHOLD to step 3, where it is refused (R183, R185). -/
theorem State.failWaiting_of_write {s : State} {be : BitVec 4} {ld : Word} {la : BitVec 15}
    (h : s.access = some ⟨.write be ld, la, true, .apply⟩) :
    s.failWaiting = s.refuseWrite (lineOf la) .holdBroken := by
  simp [State.failWaiting, h]

/-- A break leaves every other access as it is (R183). -/
theorem State.failWaiting_of_not_waiting {s : State}
    (h : ∀ a, s.access = some a → ¬ (a.phase = .apply ∧ a.lhold = true)) : s.failWaiting = s := by
  unfold State.failWaiting
  split
  · next a ha => rw [if_neg (h a ha)]
  · rfl

theorem State.failWaiting_frame (s : State) :
    s.failWaiting =
      { s with
        access := s.failWaiting.access, completion := s.failWaiting.completion, notices := s.failWaiting.notices } := by
  unfold State.failWaiting
  split
  · split
    · split <;> rfl
    · rfl
  · rfl

/-- An entry for the held line at the head of the Apply Queue presents no claim, so none is granted (R36, R180). -/
theorem State.grantsApply_of_held {s : State} {e : ApplyEntry} {rest : List ApplyEntry}
    (hq : s.applyQueue = e :: rest) (hheld : s.isHeld e.line = true) : s.grantsApply = false := by
  simp [State.grantsApply, State.applyPresents, hq, hheld]

/-- The Apply Unit completes an entry only when its claim is granted (R36). -/
theorem exec_apply_of_not_granted {s : State} (h : s.grantsApply = false) (u : Option Upset) :
    exec .applyFull s = .next s ∧ exec (.applyDelta u) s = .next s := by
  constructor
  · simp only [exec, execApplyFull, h, Bool.false_and, Bool.false_eq_true, if_false]
    split <;> rfl
  · simp only [exec, execApplyDelta, h, Bool.false_and, Bool.false_eq_true, if_false]
    split <;> rfl

/-- Settles O14: the break by the access that waits, and the held head by the arbiter. -/
theorem theLineHoldEndsBreaksAndHoldsBack : Obligations.TheLineHoldEndsBreaksAndHoldsBack := by
  unfold Obligations.TheLineHoldEndsBreaksAndHoldsBack
  refine ⟨fun s hidle => ?_, fun s l b hheld => ?_, fun s l b e rest u hheld hq hline => ?_⟩
  · simp [exec, execLholdDeasserted, State.freeHold, hidle]
  · refine ⟨_, exec_holdBreak_of_held hheld, State.failWaiting_frame (s.breakHold l b), ?_⟩
    split
    · next la ha =>
      rw [State.failWaiting_of_read (s := s.breakHold l b) ha]
      exact ⟨rfl, rfl, rfl⟩
    · next be ld la ha =>
      rw [State.failWaiting_of_write (s := s.breakHold l b) ha]
      exact ⟨rfl, rfl, rfl⟩
    · next hread hwrite =>
      rw [State.failWaiting_of_not_waiting (s := s.breakHold l b)]
      · exact ⟨rfl, rfl, rfl⟩
      · rintro ⟨kind, la, lhold, phase⟩ ha ⟨rfl, rfl⟩
        cases kind with
        | read => exact hread la ha
        | write be ld => exact hwrite be ld la ha
  · exact exec_apply_of_not_granted (State.grantsApply_of_held hq (by simp [State.isHeld, hheld, hline])) u

/-! ## The command of a write access -/

/-- The code and the argument of a written word give its command (R178, R201). -/
theorem commandOfWord_eq (v : Word) :
    commandOfWord v =
      if v.extractLsb' 24 8 = 1 then .start (v.extractLsb' 0 16)
      else if v.extractLsb' 24 8 = 2 then .leave (v.extractLsb' 0 16)
      else if v.extractLsb' 24 8 = 3 then .drain (v.extractLsb' 0 16)
      else if v.extractLsb' 24 8 = 4 then .watch (v.extractLsb' 0 16)
      else if v.extractLsb' 24 8 = 5 then .unwatch (v.extractLsb' 0 16)
      else if v.extractLsb' 24 8 = 6 then .query (v.extractLsb' 0 16)
      else if v.extractLsb' 24 8 = 7 then .intenable (v.extractLsb' 0 16)
      else .unknownCommand v := by
  simp only [commandOfWord, ← BitVec.toNat_inj]
  split <;> simp_all

/-- A write below 32768 is to the replica window (R172). -/
theorem writeCommand_of_replica {la : BitVec 16} (be : BitVec 4) (v : Word) (h : Bool) (hla : la.toNat < 32768) :
    writeCommand la be v h = .replicaWrite (la.setWidth 15) be v h := by
  simp [writeCommand, hla]

/-- A write above the control window finds no word (R172, R201). -/
theorem writeCommand_of_unassigned {la : BitVec 16} (be : BitVec 4) (v : Word) (h : Bool) (hla : 32781 ≤ la.toNat) :
    writeCommand la be v h = .unassignedAccess la true := by
  simp [writeCommand, hla, show ¬ la.toNat < 32768 by omega]

/-- The offset of a word address of the control window (R201). -/
theorem toNat_offset {la : BitVec 16} (hlow : 32768 ≤ la.toNat) (hhigh : la.toNat < 32781) :
    (la.setWidth 6).toNat = la.toNat - 32768 := by
  rw [BitVec.toNat_setWidth]; omega

/-- A write to the control window: without effect on a read-only word or with a byte enable deasserted, else to the command
word or to a configuration word (R177, R201). -/
theorem writeCommand_of_control {la : BitVec 16} (be : BitVec 4) (v : Word) (h : Bool) (hlow : 32768 ≤ la.toNat)
    (hhigh : la.toNat < 32781) :
    writeCommand la be v h =
      if 32773 ≤ la.toNat ∨ be ≠ 15 then .readOnlyWrite (la.setWidth 6) be v
      else if la.toNat = 32772 then commandOfWord v
      else .configWrite ((la.setWidth 6).setWidth 2) v := by
  have hreplica : ¬ la.toNat < 32768 := by omega
  have hassigned : ¬ 32781 ≤ la.toNat := by omega
  have hno : (readOnlyOffset (la.setWidth 6) || be != 15#4) = true ↔ 32773 ≤ la.toNat ∨ be ≠ 15 := by
    have hoffset : (5 ≤ la.toNat - 32768 ∧ la.toNat - 32768 ≤ 12) ↔ 32773 ≤ la.toNat := by omega
    simp only [readOnlyOffset, toNat_offset hlow hhigh, Bool.or_eq_true, Bool.and_eq_true, decide_eq_true_eq, bne_iff_ne,
      hoffset, BitVec.ofNat_eq_ofNat]
  have hcommand : la.toNat - 32768 = 4 ↔ la.toNat = 32772 := by omega
  simp only [writeCommand, if_neg hreplica, if_neg hassigned, hno, toNat_offset hlow hhigh, hcommand]

theorem writeCommand_commandWord (v : Word) (h : Bool) : writeCommand 32772 15 v h = commandOfWord v := by
  rw [writeCommand_of_control 15 v h (by decide) (by decide)]; rfl

/-- Each write access gives the command of the word it addresses (R172, R177, R178, R201). -/
theorem writesGiveCommands : WritesGiveCommands := by
  intro la be v h
  refine ⟨fun hla => ?_, ?_, ?_, fun hlow hhigh hno => ?_, writeCommand_of_unassigned be v h⟩
  · exact ⟨_, by rw [BitVec.toNat_setWidth]; omega, writeCommand_of_replica be v h hla⟩
  · rintro hlow hhigh rfl
    refine ⟨(la.setWidth 6).setWidth 2, ?_, ?_⟩
    · rw [BitVec.toNat_setWidth, toNat_offset hlow (by omega)]; omega
    · have hwritable : ¬ (32773 ≤ la.toNat ∨ (15 : BitVec 4) ≠ 15) := fun hno => hno.elim (by omega) fun hne => hne rfl
      rw [writeCommand_of_control 15 v h hlow (by omega), if_neg hwritable, if_neg (by omega)]
  · rintro rfl rfl
    rw [writeCommand_commandWord, commandOfWord_eq]
  · exact ⟨_, toNat_offset hlow hhigh, by rw [writeCommand_of_control be v h hlow hhigh, if_pos hno]⟩

/-! ## The value that the command word keeps -/

/-- A step answers a next state in which the command word holds a value. -/
def KeepsCommandWord (r : Result) (value : Word) : Prop := ∃ t, r = .next t ∧ t.commandWord = value

/-- Every answered command keeps its code and its argument (R177, R178). -/
theorem keepsCommandWord_answer (s : State) (code : BitVec 8) (arg : BitVec 16) (res : CommandResult) :
    KeepsCommandWord (.next (s.answer code arg res)) (commandValue code arg) := ⟨_, rfl, rfl⟩

/-! At a free port each command answers, whatever its result, with its own code and argument (R178, R179). -/

section
variable {s : State} (arg : BitVec 16) (h : PortTakes s)
include h

theorem keepsCommandWord_start : KeepsCommandWord (exec (.start arg) s) (commandValue 1 arg) := by
  simp only [exec, execStart, h.portFree, Bool.not_true, Bool.false_eq_true, if_false]
  (repeat' split) <;> apply keepsCommandWord_answer

theorem keepsCommandWord_leave : KeepsCommandWord (exec (.leave arg) s) (commandValue 2 arg) := by
  simp only [exec, execLeave, h.portFree, Bool.not_true, Bool.false_eq_true, if_false]
  split <;> apply keepsCommandWord_answer

theorem keepsCommandWord_drain : KeepsCommandWord (exec (.drain arg) s) (commandValue 3 arg) := by
  simp only [exec, execDrain, h.portFree, Bool.not_true, Bool.false_eq_true, if_false]
  (repeat' split) <;> apply keepsCommandWord_answer

theorem keepsCommandWord_watch : KeepsCommandWord (exec (.watch arg) s) (commandValue 4 arg) := by
  simp only [exec, execWatch, h.portFree, Bool.not_true, Bool.false_eq_true, if_false]
  split <;> apply keepsCommandWord_answer

theorem keepsCommandWord_unwatch : KeepsCommandWord (exec (.unwatch arg) s) (commandValue 5 arg) := by
  simp only [exec, execUnwatch, h.portFree, Bool.not_true, Bool.false_eq_true, if_false]
  split <;> apply keepsCommandWord_answer

theorem keepsCommandWord_query : KeepsCommandWord (exec (.query arg) s) (commandValue 6 arg) := by
  simp only [exec, execQuery, h.portFree, Bool.not_true, Bool.false_eq_true, if_false]
  split <;> apply keepsCommandWord_answer

/-- INTENABLE sets the interrupt enable by its argument (R178, R187). -/
theorem exec_intenable_of_portTakes :
    exec (.intenable arg) s = .next (({ s with intEnable := arg != 0 }).answer 7 arg .accepted) := by
  simp [exec, execIntenable, h.portFree]

/-- A word that names no command is kept, with LERR and the result as it was (R178). -/
theorem exec_unknownCommand_of_portTakes {v : Word} (hv : knownCommand v = false) :
    exec (.unknownCommand v) s =
      .next (({ s with commandWord := commandValue (v.extractLsb' 24 8) (v.extractLsb' 0 16) }).complete false none) := by
  simp [exec, execUnknownCommand, h.portFree, hv]

/-- A write of a read-only word, or with a byte enable deasserted, does nothing but complete with LERR (R177). -/
theorem exec_readOnlyWrite_of_portTakes {o : BitVec 6} {be : BitVec 4} {v : Word}
    (hwf : (Instr.readOnlyWrite o be v).wellFormed = true) :
    exec (.readOnlyWrite o be v) s = .next (s.complete false none) := by
  simp [exec, execReadOnlyWrite, h.portFree, hwf]

/-- An access that finds no word does nothing but complete with LERR, a read with zero (R172, R173). -/
theorem exec_unassignedAccess_of_portTakes {la : BitVec 16} (w : Bool) (hla : 32781 ≤ la.toNat) :
    exec (.unassignedAccess la w) s = .next (s.complete false (if w = true then none else some 0)) := by
  simp [exec, execUnassignedAccess, h.portFree, Instr.wellFormed, hla]

end

/-- A code that is none of the seven names no command (R178, R201). -/
theorem knownCommand_eq_false_iff (v : Word) :
    knownCommand v = false ↔ (v >>> 24).toNat = 0 ∨ 8 ≤ (v >>> 24).toNat := by
  simp only [knownCommand, Bool.and_eq_false_iff, decide_eq_false_iff_not]
  omega

/-- Every word written to the command word is kept, its code and its argument, whatever command it names (R177, R178). -/
theorem keepsCommandWord_commandOfWord {s : State} (h : PortTakes s) (v : Word) :
    KeepsCommandWord (exec (commandOfWord v) s) (commandValue (v.extractLsb' 24 8) (v.extractLsb' 0 16)) := by
  rw [commandOfWord_eq]
  split
  · next hcode => rw [hcode]; exact keepsCommandWord_start _ h
  split
  · next hcode => rw [hcode]; exact keepsCommandWord_leave _ h
  split
  · next hcode => rw [hcode]; exact keepsCommandWord_drain _ h
  split
  · next hcode => rw [hcode]; exact keepsCommandWord_watch _ h
  split
  · next hcode => rw [hcode]; exact keepsCommandWord_unwatch _ h
  split
  · next hcode => rw [hcode]; exact keepsCommandWord_query _ h
  split
  · next hcode => rw [hcode, exec_intenable_of_portTakes _ h]; exact keepsCommandWord_answer _ _ _ _
  · have hunknown : (v >>> 24).toNat = 0 ∨ 8 ≤ (v >>> 24).toNat := by
      rw [← code_toNat]
      bv_omega
    rw [exec_unknownCommand_of_portTakes h ((knownCommand_eq_false_iff v).2 hunknown)]
    exact ⟨_, rfl, rfl⟩

/-- Settles O21: the command of a write access by its address, and the answer of each such command at a free port. -/
theorem rejectedAccessesCompleteWithLerr : Obligations.RejectedAccessesCompleteWithLerr := by
  unfold Obligations.RejectedAccessesCompleteWithLerr
  refine ⟨writesGiveCommands, fun s hport => ⟨fun v h => ?_, fun v hv => ?_, fun o be v ho => ?_, fun la w hla => ?_⟩⟩
  · rw [writeCommand_commandWord]
    exact keepsCommandWord_commandOfWord hport v
  · rw [exec_unknownCommand_of_portTakes hport ((knownCommand_eq_false_iff v).2 hv)]
    rfl
  · rw [exec_readOnlyWrite_of_portTakes hport]
    · rfl
    · simpa [Instr.wellFormed, readOnlyOffset, assignedOffset] using ho
  · rw [exec_unassignedAccess_of_portTakes hport w hla]
    rfl

/-! ## Fields of a word -/

/-- A word that holds one field at a bit and zero elsewhere. The words of the control window are such words joined. -/
def fieldAt {n : Nat} (x : BitVec n) (k : Nat) : Word := x.setWidth 32 <<< k

@[simp] theorem getElem_fieldAt {n : Nat} (x : BitVec n) (k : Nat) {i : Nat} (hi : i < 32) :
    (fieldAt x k)[i] = (decide (k ≤ i) && x.getLsbD (i - k)) := by
  rw [Bool.eq_iff_iff]
  simp [fieldAt]

/-- A field reads back whole at its own bits. -/
@[simp] theorem extractLsb'_fieldAt_same {n : Nat} (x : BitVec n) {k : Nat} (h : k + n ≤ 32) :
    (fieldAt x k).extractLsb' k n = x := by
  refine BitVec.eq_of_getLsbD_eq fun i hi => ?_
  have hlt : k + i < 32 := by omega
  simp [hi, hlt]

/-- A field leaves the bits below and above it zero. -/
@[simp] theorem extractLsb'_fieldAt_disjoint {n : Nat} (x : BitVec n) {k j m : Nat} (h : j + m ≤ k ∨ k + n ≤ j) :
    (fieldAt x k).extractLsb' j m = 0 := by
  refine BitVec.eq_of_getLsbD_eq fun i hi => ?_
  obtain hbelow | habove := h
  · simp [fieldAt, show j + i < k by omega]
  · simp [fieldAt, BitVec.getLsbD_of_ge x (j + i - k) (by omega)]

theorem bitAt_eq_fieldAt (b : Bool) (i : Nat) : bitAt b i = fieldAt (BitVec.ofBool b) i := by
  cases b <;> simp [bitAt, fieldAt]

theorem setWidth_eq_fieldAt {n : Nat} (x : BitVec n) : x.setWidth 32 = fieldAt x 0 := by
  simp [fieldAt]

/-- The low 16 bits of a number, in the upper half of a word. -/
theorem ofNat_shiftLeft_eq_fieldAt (n : Nat) : BitVec.ofNat 32 n <<< 16 = fieldAt (BitVec.ofNat 16 n) 16 := by
  refine BitVec.eq_of_toNat_eq ?_
  simp [fieldAt, Nat.shiftLeft_eq]
  omega

/-! ## The words of the control window -/

theorem popcount_le (m : BitVec 32) : popcount m ≤ 32 := by
  simpa [popcount] using List.countP_le_length (l := List.range 32) (p := fun i => m.getLsbD i)

/-- The status word is its five fields; the member count, at most 32, takes six bits (R152, R201). -/
theorem State.statusWord_eq (s : State) :
    s.statusWord =
      fieldAt s.station.code 28 ||| fieldAt (.ofBool s.clearingShown) 27 ||| fieldAt (.ofBool s.sweep.lag) 26
        ||| fieldAt (.ofBool s.intEnable) 25 ||| fieldAt (.ofNat 6 (popcount s.membership)) 0 := by
  have hle := popcount_le s.membership
  have hcount : BitVec.ofNat 32 (popcount s.membership) = fieldAt (BitVec.ofNat 6 (popcount s.membership)) 0 := by
    rw [← setWidth_eq_fieldAt]
    refine BitVec.eq_of_toNat_eq ?_
    simp; omega
  simp only [State.statusWord, bitAt_eq_fieldAt, State.memberCount, hcount]
  rfl

theorem Notice.word1_eq (n : Notice) :
    n.word1 =
      fieldAt n.kindCode 24 ||| fieldAt n.detailCode 16 ||| fieldAt (.ofBool n.line.isSome) 15
        ||| fieldAt (.ofBool n.station.isSome) 14 := by
  simp only [Notice.word1, bitAt_eq_fieldAt]
  rfl

theorem Notice.word2_eq (n : Notice) :
    n.word2 = fieldAt (.ofNat 16 (n.line.getD 0)) 16 ||| fieldAt (n.station.getD 0) 0 := by
  rw [Notice.word2, ofNat_shiftLeft_eq_fieldAt, setWidth_eq_fieldAt]

theorem QueryRecord.word_zero_eq (q : QueryRecord) :
    q.word 0 =
      fieldAt (.ofNat 16 q.line) 16 ||| fieldAt (Frame.writerByte q.stamp.writer) 8 ||| fieldAt q.content.code 6
        ||| fieldAt q.pending.code 4 ||| fieldAt (.ofBool q.applyPending) 2 ||| fieldAt (.ofBool q.watched) 1
        ||| fieldAt (.ofBool q.listed) 0 := by
  simp only [QueryRecord.word, bitAt_eq_fieldAt, ofNat_shiftLeft_eq_fieldAt]
  rfl

theorem QueryRecord.word_one_eq (q : QueryRecord) : q.word 1 = fieldAt (q.stamp.version.extractLsb' 32 16) 0 :=
  setWidth_eq_fieldAt _

/-- The codes and names of a notice are those of the tables (R189, R202). -/
theorem noticeFields_eq (n : Notice) : noticeFields n = ⟨n.kindCode, n.detailCode, n.line, n.station⟩ := by
  cases n <;> first | rfl | (next d => cases d <;> rfl)

/-- Three parts side by side read back one by one. -/
theorem extractLsb'_append_three {a b c : Nat} (x : BitVec a) (y : BitVec b) (z : BitVec c) :
    (x ++ y ++ z).extractLsb' (c + b) a = x ∧ (x ++ y ++ z).extractLsb' c b = y ∧ (x ++ y ++ z).extractLsb' 0 c = z := by
  refine ⟨?_, ?_, BitVec.extractLsb'_append_eq_right⟩
  · rw [BitVec.extractLsb'_append_eq_of_le (by omega), Nat.add_sub_cancel_left, BitVec.extractLsb'_append_eq_left]
  · rw [BitVec.extractLsb'_append_eq_of_le (Nat.le_refl c), Nat.sub_self, BitVec.extractLsb'_append_eq_right]

/-- The configuration words hold their fields side by side (R150, R201). -/
theorem configurationReads (s : State) : ConfigurationReads s := by
  exact
    ⟨⟨_, rfl, extractLsb'_append_three s.config.stationNumber s.config.ringSpan s.config.instanceToken⟩,
      ⟨s.config.returnLimit ++ s.config.probeInterval, rfl, BitVec.extractLsb'_append_eq_left,
        BitVec.extractLsb'_append_eq_right⟩,
      ⟨_, rfl, extractLsb'_append_three s.config.sweepInterval s.config.holdLimit s.config.retryLimit⟩,
      _, rfl, extractLsb'_append_three s.config.windowSize 0#8 s.config.deltaEnable⟩

theorem commandReads (s : State) : CommandReads s := by
  refine ⟨rfl, ?_, ⟨s.membership, rfl, fun _ _ => rfl⟩, fun o ho => ?_⟩
  · cases hr : s.result <;> simp [State.controlWord, hr, CommandResult.code]
  · rw [State.controlWord]
    iterate 8 rw [if_neg (by omega)]

theorem writerByte_eq_getD (w : Option Byte) : Frame.writerByte w = w.getD 255 := by
  cases w <;> rfl

/-- Query word 0 returns its fields in their bits; the line number takes 16 of them (R202). -/
theorem QueryRecord.word_zero_reads (q : QueryRecord) (hline : q.line < 65536) :
    ((q.word 0).extractLsb' 16 16).toNat = q.line ∧ (q.word 0).extractLsb' 8 8 = Frame.writerByte q.stamp.writer
      ∧ (q.word 0).extractLsb' 6 2 = q.content.code ∧ (q.word 0).extractLsb' 4 2 = q.pending.code
      ∧ (q.word 0).getLsbD 3 = false ∧ (q.word 0).getLsbD 2 = q.applyPending ∧ (q.word 0).getLsbD 1 = q.watched
      ∧ (q.word 0).getLsbD 0 = q.listed := by
  rw [QueryRecord.word_zero_eq]
  simpa [BitVec.extractLsb'_or] using hline

/-- The query words hold the query record by the codes of its content and of its pending state (R202). -/
theorem queryReads (s : State) : QueryReads s := by
  refine ⟨fun hlt => ⟨s.query.word 0, rfl, ?_⟩, ⟨s.query.word 1, rfl, ?_⟩, rfl⟩
  · obtain ⟨hline, hwriter, hcontent, hpending, hmarks⟩ := s.query.word_zero_reads hlt
    refine ⟨hline, ?_, ?_, ?_, hmarks⟩
    · rw [hwriter, writerByte_eq_getD]
    · rw [hcontent]; cases s.query.content <;> rfl
    · rw [hpending]; cases s.query.pending <;> rfl
  · rw [QueryRecord.word_one_eq]
    simp

theorem noticeOneReads (s : State) : NoticeOneReads s := by
  refine ⟨fun hempty => ?_, fun n rest hhead => ⟨n.word1, ?_, ?_⟩⟩
  · simp [State.controlWord, State.noticeWord1, hempty]
  · simp [State.controlWord, State.noticeWord1, hhead]
  · rw [Notice.word1_eq, noticeFields_eq]
    simp [BitVec.extractLsb'_or]

/-! ## The reads that act, and NIRQ -/

theorem exec_statusRead_of_portTakes {s : State} (h : PortTakes s) :
    exec .statusRead s = .next (({ s with sweep := { s.sweep with lag := false } }).complete true (some s.statusWord)) := by
  simp [exec, execStatusRead, h.portFree]

theorem exec_noticeRead_of_portTakes {s : State} (h : PortTakes s) :
    exec .noticeRead s = .next (({ s with notices := s.notices.tail }).complete true (some s.noticeWord2)) := by
  simp [exec, execNoticeRead, h.portFree]

/-- The status word returns its fields in their bits (R152, R201). -/
theorem State.statusWord_reads (s : State) :
    s.statusWord.extractLsb' 28 4 = s.station.code ∧ s.statusWord.getLsbD 27 = s.clearingShown
      ∧ s.statusWord.getLsbD 26 = s.sweep.lag ∧ s.statusWord.getLsbD 25 = s.intEnable
      ∧ (s.statusWord.extractLsb' 0 6).toNat = popcount s.membership ∧ s.statusWord.extractLsb' 6 19 = 0 := by
  have hcount : popcount s.membership < 64 := Nat.lt_of_le_of_lt (popcount_le _) (by decide)
  rw [State.statusWord_eq]
  simpa [BitVec.extractLsb'_or] using hcount

/-- Notice word 2 returns the line and the station of its notice, zero where absent (R202). -/
theorem Notice.word2_reads (n : Notice) (hline : ∀ l, n.line = some l → l < 65536) :
    (n.word2.extractLsb' 16 16).toNat = n.line.getD 0 ∧ n.word2.extractLsb' 8 8 = 0
      ∧ n.word2.extractLsb' 0 8 = n.station.getD 0 := by
  have hlt : n.line.getD 0 < 65536 := by
    cases hl : n.line with
    | none => decide
    | some l => exact hline l hl
  rw [Notice.word2_eq]
  simpa [BitVec.extractLsb'_or] using hlt

/-- Settles O20: each word is its fields joined, and a field reads back whole at its own bits. -/
theorem intenableAndTheReadsThatAct : Obligations.IntenableAndTheReadsThatAct := by
  unfold Obligations.IntenableAndTheReadsThatAct
  refine ⟨fun s arg hport => ?_, fun s hport => ?_, fun s hport => ⟨fun hempty => ?_, fun n rest hhead hline => ?_⟩,
    fun s => ⟨configurationReads s, commandReads s, queryReads s, noticeOneReads s⟩⟩
  · have hon : (arg != 0) = decide (arg ≠ 0) := by rw [Bool.eq_iff_iff]; simp
    have hwaits : (!s.notices.isEmpty) = decide (s.notices ≠ []) := by rw [Bool.eq_iff_iff]; simp
    refine ⟨_, exec_intenable_of_portTakes arg hport, ?_, ?_⟩
    · rw [hon]; rfl
    · rw [← hon, ← hwaits]; rfl
  · refine ⟨s.statusWord, exec_statusRead_of_portTakes hport, rfl, ?_⟩
    obtain ⟨hstation, hrest⟩ := s.statusWord_reads
    refine ⟨?_, hrest⟩
    rw [hstation]
    cases s.station <;> rfl
  · rw [exec_noticeRead_of_portTakes hport]
    simp [State.noticeWord2, State.controlWord, State.complete, hempty]
  · rw [noticeFields_eq] at hline ⊢
    refine ⟨n.word2, ?_, ?_, n.word2_reads hline⟩
    · rw [exec_noticeRead_of_portTakes hport]
      simp [State.noticeWord2, State.complete, hhead]
    · simp [State.noticeWord2, State.controlWord, hhead]

end Sys2Proof.Machine

/-! # Notices and drain: the Notice Queue's last place, the commands that name a line, DRAIN

The statements of the family 10_notices_and_drain. Each command is followed by one rule for each branch it can take at a free
port; a drain's condition is read as the Post List and the UPDATE slots that it speaks of. -/

namespace Sys2Proof.Machine

/-! ## The Notice Queue -/

/-- Settles O50: the queue has room, has its last place left, or is full. -/
theorem noticeQueueEndsInOverflow : Obligations.NoticeQueueEndsInOverflow := by
  unfold Obligations.NoticeQueueEndsInOverflow
  intro s n
  refine ⟨fun hroom => ?_, fun hlast => ?_, fun hfull => ?_⟩
  · rw [State.give, placeNotice_room n hroom]
  · rw [State.give, placeNotice_last n hlast]
  · rw [State.give, placeNotice_full n hfull]

/-! ## The commands that name a line -/

section
variable {s : State} (line : BitVec 16) (h : PortTakes s)
include h

theorem exec_watch_of_inWindow (hw : s.inWindow line.toNat = true) :
    exec (.watch line) s = .next ((s.setWatched line.toNat true).answer 4 line .accepted) := by
  simp [exec, execWatch, h.portFree, hw]

theorem exec_watch_of_beyond (hw : s.inWindow line.toNat = false) :
    exec (.watch line) s = .next (s.answer 4 line .badLine) := by
  simp [exec, execWatch, h.portFree, hw]

theorem exec_unwatch_of_inWindow (hw : s.inWindow line.toNat = true) :
    exec (.unwatch line) s = .next ((s.setWatched line.toNat false).answer 5 line .accepted) := by
  simp [exec, execUnwatch, h.portFree, hw]

theorem exec_unwatch_of_beyond (hw : s.inWindow line.toNat = false) :
    exec (.unwatch line) s = .next (s.answer 5 line .badLine) := by
  simp [exec, execUnwatch, h.portFree, hw]

theorem exec_query_of_inWindow (hw : s.inWindow line.toNat = true) :
    exec (.query line) s =
      .next (({ s with query := (s.lineRec line.toNat).query line.toNat }).answer 6 line .accepted) := by
  simp [exec, execQuery, h.portFree, hw]

theorem exec_query_of_beyond (hw : s.inWindow line.toNat = false) :
    exec (.query line) s = .next (s.answer 6 line .badLine) := by
  simp [exec, execQuery, h.portFree, hw]

end

/-- The watched mark of a line is set in its record, and no other record changes; the answer touches none (R193). -/
theorem onlyRecord_setWatched_answer (s : State) (line : Nat) (watched : Bool) (code : BitVec 8) (arg : BitVec 16)
    (res : CommandResult) :
    OnlyRecord s ((s.setWatched line watched).answer code arg res) line { s.lineRec line with watched } :=
  ⟨State.lineRec_setRec_same s line _, fun _ hk => State.lineRec_setRec_other s _ hk⟩

/-- Settles O19: the window decides each command; a mark is one record's, and QUERY copies the record. -/
theorem watchUnwatchAndQueryNameALine : Obligations.WatchUnwatchAndQueryNameALine := by
  unfold Obligations.WatchUnwatchAndQueryNameALine
  refine ⟨fun s line hport => ⟨fun hbeyond => ?_, fun hin => ?_⟩, fun s line hport => ⟨fun hbeyond => ?_, fun hin => ?_⟩⟩
  · exact ⟨exec_watch_of_beyond line hport hbeyond, exec_unwatch_of_beyond line hport hbeyond⟩
  · exact ⟨⟨_, exec_watch_of_inWindow line hport hin, rfl, onlyRecord_setWatched_answer ..⟩,
      ⟨_, exec_unwatch_of_inWindow line hport hin, rfl, onlyRecord_setWatched_answer ..⟩⟩
  · exact exec_query_of_beyond line hport hbeyond
  · exact exec_query_of_inWindow line hport hin

/-! ## The drain -/

/-- A drain's condition is met when no post waits and no UPDATE slot is in use (R195). -/
theorem State.drained_iff (s : State) :
    s.drained = true ↔ s.postList = [] ∧ ∀ i, (s.slot i).isFor .update = false := by
  rw [← State.updateSlots_eq_zero]
  simp [State.drained]

/-- A drain's condition is unmet when a post waits or an UPDATE slot is in use (R195). -/
theorem State.not_drained_of_waiting {s : State} (h : s.postList ≠ [] ∨ ∃ i, (s.slot i).isFor .update = true) :
    s.drained = false := by
  obtain hposts | ⟨i, hi⟩ := h
  · simp [State.drained, hposts]
  · exact State.not_drained_of_slot hi

/-- A pending drain whose condition is met completes with DRAINED COMPLETE (R195). -/
theorem State.drainTest_of_drained {s : State} (hp : s.drainPending = true) (hd : s.drained = true) :
    s.drainTest = { s.give (.drained .complete) with drainPending := false } := by
  simp [State.drainTest, hp, hd]

section
variable {s : State} (arg : BitVec 16) (h : PortTakes s)
include h

theorem exec_drain_of_not_active (ha : s.station.isActive = false) :
    exec (.drain arg) s = .next (s.answer 3 arg .wrongState) := by
  simp [exec, execDrain, h.portFree, ha]

theorem exec_drain_of_pending (ha : s.station.isActive = true) (hp : s.drainPending = true) :
    exec (.drain arg) s = .next (s.answer 3 arg .accepted) := by
  simp [exec, execDrain, h.portFree, ha, hp]

/-- A drain that is taken becomes pending and is tested in the same step (R194, R195). -/
theorem exec_drain_of_not_pending (ha : s.station.isActive = true) (hp : s.drainPending = false) :
    exec (.drain arg) s = .next (({ s with drainPending := true }).drainTest.answer 3 arg .accepted) := by
  simp [exec, execDrain, h.portFree, ha, hp]

end

/-- Settles O18: the station state, the drain mark and the drain's condition decide, in this order. -/
theorem drainIsTakenByTheStationState : Obligations.DrainIsTakenByTheStationState := by
  unfold Obligations.DrainIsTakenByTheStationState
  intro s arg hport
  refine ⟨fun hactive => ?_, fun hactive hpending => ?_, fun hactive hpending hmet => ?_, fun hactive hpending hunmet => ?_⟩
  · exact exec_drain_of_not_active arg hport hactive
  · exact exec_drain_of_pending arg hport hactive hpending
  · have hdrained : ({ s with drainPending := true } : State).drained = true := (State.drained_iff _).2 hmet
    rw [exec_drain_of_not_pending arg hport hactive hpending, State.drainTest_of_drained rfl hdrained, ← hpending]
    rfl
  · have hdrained : ({ s with drainPending := true } : State).drained = false := State.not_drained_of_waiting hunmet
    rw [exec_drain_of_not_pending arg hport hactive hpending, State.drainTest_of_not_drained hdrained]
    rfl

end Sys2Proof.Machine

/-! # Frame formats: every frame the part builds reads back

The statement of the family 11_frame_and_record_formats. A field is read where its bytes begin: each rule `…_of_drop` takes the
bytes that stand at an offset of a frame to the value read there. What the four kinds have in common, the header and the check,
is said once of a sealed header and payload (`Frame.sealed_reads`); each kind then adds the offsets of its own fields. -/

namespace Sys2Proof.Machine

/-! ## A field is read where its bytes begin (R199) -/

/-- A vector is its high part beside its low part. -/
theorem extractLsb'_append_extractLsb'_self {high low : Nat} (x : BitVec (high + low)) :
    x.extractLsb' low high ++ x.extractLsb' 0 low = x := by
  ext k hk
  rw [BitVec.getElem_append]
  split
  · simp [hk]
  · next h => simp [Nat.add_sub_of_le (Nat.le_of_not_lt h), hk]

/-- What follows the first bytes at an offset stands at a later offset. -/
theorem drop_add_of_append {f p rest : List Byte} {i n : Nat} (h : f.drop i = p ++ rest) (hp : p.length = n) :
    f.drop (i + n) = rest := by
  rw [← List.drop_drop, h, ← hp, List.drop_left]

theorem Frame.byte_eq_of_drop {f rest : List Byte} {b : Byte} {i : Nat} (h : f.drop i = b :: rest) : Frame.byte f i = b := by
  rw [Frame.byte, List.getD_eq_getElem?_getD, ← List.head?_drop, h]
  rfl

theorem Frame.half_eq_of_drop {f rest : List Byte} {x : BitVec 16} {i : Nat} (h : f.drop i = Frame.halfBytes x ++ rest) :
    Frame.half f i = x := by
  have hhigh : Frame.byte f i = x.extractLsb' 8 8 := Frame.byte_eq_of_drop h
  have hlow : Frame.byte f (i + 1) = x.extractLsb' 0 8 :=
    Frame.byte_eq_of_drop (drop_add_of_append (p := [x.extractLsb' 8 8]) h rfl)
  rw [Frame.half, hhigh, hlow]
  exact extractLsb'_append_extractLsb'_self (high := 8) (low := 8) x

theorem Frame.word_eq_of_drop {f rest : List Byte} {x : BitVec 32} {i : Nat} (h : f.drop i = Frame.wordBytes x ++ rest) :
    Frame.word f i = x := by
  rw [Frame.wordBytes, List.append_assoc] at h
  have hhigh : Frame.half f i = x.extractLsb' 16 16 := Frame.half_eq_of_drop h
  have hlow : Frame.half f (i + 2) = x.extractLsb' 0 16 := Frame.half_eq_of_drop (drop_add_of_append h rfl)
  rw [Frame.word, hhigh, hlow]
  exact extractLsb'_append_extractLsb'_self (high := 16) (low := 16) x

/-- A writer byte above 31 is taken as writer none, and so is the 255 that none is sent as (R199). -/
theorem Frame.writerOf_writerByte (w : Option Byte) :
    Frame.writerOf (Frame.writerByte w) = w.filter fun b => decide (b.toNat < 32) := by
  cases w with
  | none => rfl
  | some b => by_cases hb : b.toNat < 32 <;> simp [Frame.writerByte, Frame.writerOf, Option.filter, hb]

theorem Frame.stampAt_eq_of_drop {f rest : List Byte} {t : Stamp} {i : Nat} (h : f.drop i = Frame.stampBytes t ++ rest) :
    Frame.stampAt f i = t.asReceived := by
  rw [Frame.stampBytes, List.append_assoc, List.append_assoc] at h
  have hhigh : Frame.word f i = t.version.extractLsb' 16 32 := Frame.word_eq_of_drop h
  have hafter := drop_add_of_append (n := 4) h rfl
  have hlow : Frame.half f (i + 4) = t.version.extractLsb' 0 16 := Frame.half_eq_of_drop hafter
  have hwriter : Frame.byte f (i + 6) = Frame.writerByte t.writer :=
    Frame.byte_eq_of_drop (drop_add_of_append (n := 2) hafter rfl)
  have hversion : t.version.extractLsb' 16 32 ++ t.version.extractLsb' 0 16 = t.version :=
    extractLsb'_append_extractLsb'_self (high := 32) (low := 16) t.version
  rw [Frame.stampAt, hhigh, hlow, hwriter, hversion, Frame.writerOf_writerByte, Stamp.asReceived]

/-! ## The header and the check (R64, R133, R198, R200) -/

/-- A header has its kind bits, MISSED and ANSWERED clear, and UNTRACKED as asked, whatever follows it (R64, R198). -/
theorem Frame.header_reads (bits : BitVec 4) (untracked : Bool) (budget origin tag : Byte) {line : Nat} (hline : line < 65536)
    (rest : List Byte) :
    Frame.kindBits (Frame.header bits untracked budget origin tag line ++ rest) = bits
      ∧ HeaderReads (Frame.header bits untracked budget origin tag line ++ rest)
          (Frame.kind (Frame.header bits untracked budget origin tag line ++ rest)) untracked budget origin tag line := by
  have hfirst : Frame.byte (Frame.header bits untracked budget origin tag line ++ rest) 0
      = bits ++ (if untracked then 2#4 else 0#4) := rfl
  have hnumber : Frame.half (Frame.header bits untracked budget origin tag line ++ rest) 4 = BitVec.ofNat 16 line :=
    Frame.half_eq_of_drop (rest := rest) rfl
  refine ⟨?_, rfl, ?_, ?_, ?_, rfl, rfl, rfl, ?_⟩
  · rw [Frame.kindBits, hfirst, BitVec.extractLsb'_append_eq_left]
  · rw [Frame.missed, hfirst, BitVec.getLsbD_append]; cases untracked <;> rfl
  · rw [Frame.answered, hfirst, BitVec.getLsbD_append]; cases untracked <;> rfl
  · rw [Frame.untracked, hfirst, BitVec.getLsbD_append]; cases untracked <;> rfl
  · rw [Frame.line, hnumber, BitVec.toNat_ofNat, Nat.mod_eq_of_lt hline]

/-- The tag of a transmission gives back its slot and its generation (R62, R198). -/
theorem Frame.slot_generation_of_tag {f : List Byte} {i : SlotNo} {g : BitVec 4} (h : Frame.tag f = Frame.slotTag i g) :
    Frame.slot f = i ∧ Frame.generation f = g := by
  rw [Frame.slot, Frame.generation, h, Frame.slotTag, BitVec.extractLsb'_append_eq_left, BitVec.extractLsb'_append_eq_right]
  exact ⟨rfl, rfl⟩

theorem Frame.length_seal (body : List Byte) : (Frame.seal body).length = body.length + 2 :=
  List.length_append

/-- A sealed body of at least six bytes passes the check: its last two bytes are its CRC (R131, R133). -/
theorem Frame.checkGood_seal {body : List Byte} (h : 6 ≤ body.length) : Frame.checkGood (Frame.seal body) = true := by
  have hlength : (Frame.seal body).length - 2 = body.length := by rw [Frame.length_seal, Nat.add_sub_cancel]
  have hcrc : Frame.half (Frame.seal body) body.length = Crc.compute body :=
    Frame.half_eq_of_drop (rest := []) (by rw [Frame.seal, List.drop_left, List.append_nil])
  have htake : (Frame.seal body).take body.length = body := List.take_left
  rw [Frame.checkGood, hlength, hcrc, htake, Frame.length_seal]
  simpa using h

/-- A sealed header and payload: eight bytes more than the payload, a good check, the header's fields, and the payload from byte
6 on. -/
theorem Frame.sealed_reads {f payload : List Byte} {bits : BitVec 4} {untracked : Bool} {budget origin tag : Byte} {line : Nat}
    (hf : f = Frame.seal (Frame.header bits untracked budget origin tag line ++ payload)) (hline : line < 65536) :
    f.length = 8 + payload.length ∧ Frame.checkGood f = true ∧ Frame.kindBits f = bits
      ∧ HeaderReads f (Frame.kind f) untracked budget origin tag line
      ∧ ∃ check, f.drop 6 = payload ++ check := by
  have hlength : (Frame.header bits untracked budget origin tag line ++ payload).length = 6 + payload.length :=
    List.length_append
  have happend := hf
  rw [Frame.seal, List.append_assoc] at happend
  obtain ⟨hbits, hheader⟩ := Frame.header_reads bits untracked budget origin tag hline
    (payload ++ Frame.halfBytes (Crc.compute (Frame.header bits untracked budget origin tag line ++ payload)))
  rw [← happend] at hbits hheader
  refine ⟨?_, ?_, hbits, hheader, _, congrArg (List.drop 6) happend⟩
  · rw [hf, Frame.length_seal, hlength]; omega
  · rw [hf]; exact Frame.checkGood_seal (by omega)

/-! ## The four kinds (R134, R199) -/

theorem popcount_eq_zero_iff (m : BitVec 32) : popcount m = 0 ↔ m = 0 := by
  rw [popcount, List.countP_eq_zero]
  refine ⟨fun h => BitVec.eq_of_getLsbD_eq fun k hk => ?_, fun h => ?_⟩
  · simpa using h k (List.mem_range.2 hk)
  · simp [h]

section
variable (untracked : Bool) (budget origin tag : Byte) {line : Nat} (hline : line < 65536) (stamp : Stamp) {data : List Byte}
include hline

theorem Frame.full_reads (hdata : data.length = 32) :
    (Frame.full untracked budget origin tag line stamp data).length = 47
      ∧ ReceivedWell (Frame.full untracked budget origin tag line stamp data)
      ∧ HeaderReads (Frame.full untracked budget origin tag line stamp data) .full untracked budget origin tag line
      ∧ Frame.stamp (Frame.full untracked budget origin tag line stamp data) = stamp.asReceived
      ∧ Frame.fullData (Frame.full untracked budget origin tag line stamp data) = data := by
  have hf : Frame.full untracked budget origin tag line stamp data =
      Frame.seal (Frame.header 1 untracked budget origin tag line ++ (Frame.stampBytes stamp ++ data)) := by
    rw [Frame.full, List.append_assoc]
  generalize Frame.full untracked budget origin tag line stamp data = f at hf ⊢
  obtain ⟨hlength, hgood, hbits, hheader, check, hpayload⟩ := Frame.sealed_reads hf hline
  have hkind : Frame.kind f = .full := if_pos hbits
  have h47 : f.length = 47 := by rw [hlength, List.length_append, hdata]; rfl
  rw [List.append_assoc] at hpayload
  have hafter : f.drop 13 = data ++ check := drop_add_of_append hpayload rfl
  refine ⟨h47, ⟨hgood, ?_⟩, hkind ▸ hheader, Frame.stampAt_eq_of_drop hpayload, ?_⟩
  · simp [Frame.malformed, hkind, h47]
  · rw [Frame.fullData, hafter, List.take_left' hdata]

theorem Frame.delta_reads (base : Stamp) {mask : Mask} (hmask : mask ≠ 0) (hdata : data.length = popcount mask) :
    (Frame.delta budget origin tag line stamp base mask data).length = 26 + popcount mask
      ∧ ReceivedWell (Frame.delta budget origin tag line stamp base mask data)
      ∧ HeaderReads (Frame.delta budget origin tag line stamp base mask data) .delta false budget origin tag line
      ∧ Frame.stamp (Frame.delta budget origin tag line stamp base mask data) = stamp.asReceived
      ∧ Frame.baseStamp (Frame.delta budget origin tag line stamp base mask data) = base.asReceived
      ∧ Frame.mask (Frame.delta budget origin tag line stamp base mask data) = mask
      ∧ Frame.deltaData (Frame.delta budget origin tag line stamp base mask data) = data := by
  have hf : Frame.delta budget origin tag line stamp base mask data =
      Frame.seal (Frame.header 2 false budget origin tag line
        ++ (Frame.stampBytes stamp ++ (Frame.stampBytes base ++ (Frame.wordBytes mask ++ data)))) := by
    simp only [Frame.delta, List.append_assoc]
  generalize Frame.delta budget origin tag line stamp base mask data = f at hf ⊢
  obtain ⟨hlength, hgood, hbits, hheader, check, hpayload⟩ := Frame.sealed_reads hf hline
  have hkind : Frame.kind f = .delta := by simp [Frame.kind, hbits]
  have hsize : f.length = 26 + popcount mask := by
    have hfixed : f.length = 8 + (data.length + 18) := hlength
    omega
  simp only [List.append_assoc] at hpayload
  have hbase : f.drop 13 = _ := drop_add_of_append hpayload rfl
  have hset : f.drop 20 = _ := drop_add_of_append hbase rfl
  have hbytes : f.drop 24 = data ++ check := drop_add_of_append hset rfl
  have hreads : Frame.mask f = mask := Frame.word_eq_of_drop hset
  refine ⟨hsize, ⟨hgood, ?_⟩, hkind ▸ hheader, Frame.stampAt_eq_of_drop hpayload, Frame.stampAt_eq_of_drop hbase, hreads, ?_⟩
  · simp [Frame.malformed, hkind, hsize, hreads, mt (popcount_eq_zero_iff mask).1 hmask]
  · rw [Frame.deltaData, hbytes, hreads, List.take_left' hdata]

theorem Frame.request_reads :
    (Frame.request budget origin tag line stamp).length = 15
      ∧ ReceivedWell (Frame.request budget origin tag line stamp)
      ∧ HeaderReads (Frame.request budget origin tag line stamp) .request false budget origin tag line
      ∧ Frame.stamp (Frame.request budget origin tag line stamp) = stamp.asReceived := by
  have hf : Frame.request budget origin tag line stamp =
      Frame.seal (Frame.header 3 false budget origin tag line ++ Frame.stampBytes stamp) := rfl
  generalize Frame.request budget origin tag line stamp = f at hf ⊢
  obtain ⟨hlength, hgood, hbits, hheader, check, hpayload⟩ := Frame.sealed_reads hf hline
  have hkind : Frame.kind f = .request := by simp [Frame.kind, hbits]
  have h15 : f.length = 15 := hlength
  exact ⟨h15, ⟨hgood, by simp [Frame.malformed, hkind, h15]⟩, hkind ▸ hheader, Frame.stampAt_eq_of_drop hpayload⟩

end

theorem Frame.probe_reads (budget origin number : Byte) (token : BitVec 16) (presence : BitVec 32) :
    (Frame.probe budget origin number token presence).length = 14
      ∧ ReceivedWell (Frame.probe budget origin number token presence)
      ∧ HeaderReads (Frame.probe budget origin number token presence) .probe false budget origin number 0
      ∧ Frame.token (Frame.probe budget origin number token presence) = token
      ∧ Frame.presence (Frame.probe budget origin number token presence) = presence := by
  have hf : Frame.probe budget origin number token presence =
      Frame.seal (Frame.header 4 false budget origin number 0 ++ (Frame.halfBytes token ++ Frame.wordBytes presence)) := by
    rw [Frame.probe, List.append_assoc]
  generalize Frame.probe budget origin number token presence = f at hf ⊢
  obtain ⟨hlength, hgood, hbits, hheader, check, hpayload⟩ := Frame.sealed_reads hf (by decide)
  have hkind : Frame.kind f = .probe := by simp [Frame.kind, hbits]
  have h14 : f.length = 14 := hlength
  rw [List.append_assoc] at hpayload
  have hmap : f.drop 8 = Frame.wordBytes presence ++ check := drop_add_of_append hpayload rfl
  exact ⟨h14, ⟨hgood, by simp [Frame.malformed, hkind, h14]⟩, hkind ▸ hheader, Frame.half_eq_of_drop hpayload,
    Frame.word_eq_of_drop hmap⟩

/-- Settles O52: each kind reads back by the layout of its bytes; the tag and the CRC of the nine digits stand by themselves. -/
theorem ownFramesReadBack : Obligations.OwnFramesReadBack := by
  unfold Obligations.OwnFramesReadBack
  refine ⟨fun untracked budget origin tag line stamp base mask data token map hline => ⟨fun hdata => ?_,
    fun hmask hdata => ?_, ?_, ?_⟩, fun f i g => Frame.slot_generation_of_tag, by decide +kernel⟩
  · exact Frame.full_reads untracked budget origin tag hline stamp hdata
  · exact Frame.delta_reads budget origin tag hline stamp base hmask hdata
  · exact Frame.request_reads budget origin tag hline stamp
  · exact Frame.probe_reads budget origin tag token map

end Sys2Proof.Machine

/-! # The step and the queue of commands

The statement of the family of the step itself; what each command then does is said by the families above. -/

namespace Sys2Proof.Machine

/-- A state whose queue has a command at the front is moved by that command, taken off the queue before it runs; the tick has
no part in the step. -/
theorem step_of_pending_cons {s : State} {c : Instr} {rest : List Instr} (h : s.pending = c :: rest) :
    step s = exec c { s with pending := rest } := by
  rw [step, h]

/-- Settles O1: the queue as it stood before `c :: rest` was put in its place is not looked at. -/
theorem stepTakesTheFrontCommand : Obligations.StepTakesTheFrontCommand := by
  unfold Obligations.StepTakesTheFrontCommand
  intro c rest s
  exact step_of_pending_cons (s := { s with pending := c :: rest }) rfl

end Sys2Proof.Machine

/-! # What a step leaves beside the lines

The invariants of the ring side and of the station look at no line record, list, slot or notice. Each operation on lines is
stated here once by what it leaves of all the rest. -/

namespace Sys2Proof.Machine

/-! ## The state beside the lines -/

/-- The state with all that is held of the lines blanked: the Replica Store, the Line Directory, the lists and queues that
follow it, the slots, the Sweep Unit, the drain and the notices. -/
def State.besidesLines (s : State) : State :=
  { s with
    mem := [], codes := [], lines := [], applyQueue := [], postList := [], repairList := []
    slots := Vector.replicate 16 ⟨0, none⟩, dueCount := 0, sweep := SweepUnit.reset, drainPending := false
    freeCount := 0, notices := [] }

namespace State
section
variable (s : State)

/-! ### Records, lists and slots -/

@[simp] theorem besidesLines_strike (line : Nat) (u : Option Upset) :
    (s.strike line u).besidesLines = s.besidesLines := by
  rw [strike_frame]; rfl

@[simp] theorem besidesLines_writeLine (line : Nat) (bytes : List Byte) :
    (s.writeLine line bytes).besidesLines = s.besidesLines := rfl

@[simp] theorem besidesLines_setRec (line : Nat) (r : LineRecord) : (s.setRec line r).besidesLines = s.besidesLines := rfl

@[simp] theorem besidesLines_setPostList (posts : List Nat) :
    ({ s with postList := posts } : State).besidesLines = s.besidesLines := rfl

@[simp] theorem besidesLines_unpost (line : Nat) : (s.unpost line).besidesLines = s.besidesLines := rfl

@[simp] theorem besidesLines_unlistLine (line : Nat) : (s.unlistLine line).besidesLines = s.besidesLines := rfl

@[simp] theorem besidesLines_unlistAll : s.unlistAll.besidesLines = s.besidesLines := rfl

@[simp] theorem besidesLines_give (n : Notice) : (s.give n).besidesLines = s.besidesLines := rfl

@[simp] theorem besidesLines_giveBoth (a b : Notice) : (s.giveBoth a b).besidesLines = s.besidesLines := by
  rw [giveBoth_frame]; rfl

@[simp] theorem besidesLines_listLine (line : Nat) : (s.listLine line).besidesLines = s.besidesLines := by
  rw [listLine_frame]; rfl

@[simp] theorem besidesLines_checkFailure (line : Nat) : (s.checkFailure line).besidesLines = s.besidesLines := by
  rw [checkFailure_frame]; rfl

@[simp] theorem besidesLines_drainTest : s.drainTest.besidesLines = s.besidesLines := by
  rw [drainTest_frame]; rfl

@[simp] theorem besidesLines_endDrain : s.endDrain.besidesLines = s.besidesLines := by
  rw [endDrain_frame]; rfl

@[simp] theorem besidesLines_setSlot (i : SlotNo) (x : Slot) : (s.setSlot i x).besidesLines = s.besidesLines := rfl

@[simp] theorem besidesLines_freeSlot (i : SlotNo) : (s.freeSlot i).besidesLines = s.besidesLines := rfl

@[simp] theorem besidesLines_freeRepairSlot (line : Nat) :
    (s.freeRepairSlot line).besidesLines = s.besidesLines := by
  unfold besidesLines; rfl

@[simp] theorem besidesLines_transmit (i : SlotNo) (u : SlotUse) : (s.transmit i u).besidesLines = s.besidesLines := rfl

@[simp] theorem besidesLines_makeDue (i : SlotNo) (u : SlotUse) (kind : TxKind) (n : Nat) :
    (s.makeDue i u kind n).besidesLines = s.besidesLines := rfl

@[simp] theorem besidesLines_endFlight (i : SlotNo) (line : Nat) (mustFull : Bool) :
    (s.endFlight i line mustFull).besidesLines = s.besidesLines := by
  rw [endFlight_frame]; rfl

@[simp] theorem besidesLines_endSweepStep : s.endSweepStep.besidesLines = s.besidesLines := rfl

@[simp] theorem besidesLines_abandonSlots : s.abandonSlots.besidesLines = s.besidesLines := by
  rw [abandonSlots_frame]; unfold besidesLines; rfl

/-! ### The Apply Unit -/

@[simp] theorem besidesLines_popApply (e : ApplyEntry) (rest : List ApplyEntry) :
    (s.popApply e rest).besidesLines = s.besidesLines := rfl

@[simp] theorem besidesLines_endRepair (line : Nat) : (s.endRepair line).besidesLines = s.besidesLines := by
  rw [endRepair, besidesLines_freeRepairSlot, besidesLines_unlistLine]

@[simp] theorem besidesLines_giveApplied (e : ApplyEntry) : (s.giveApplied e).besidesLines = s.besidesLines := by
  unfold giveApplied
  dsimp only
  split <;> rfl

@[simp] theorem besidesLines_applyFullEntry (e : ApplyEntry) (rest : List ApplyEntry) :
    (s.applyFullEntry e rest).besidesLines = s.besidesLines := by
  unfold applyFullEntry
  dsimp only
  rw [besidesLines_giveApplied, besidesLines_popApply]
  (repeat' split) <;> simp

@[simp] theorem besidesLines_applyDeltaEntry (e : ApplyEntry) (rest : List ApplyEntry) (u : Option Upset) :
    (s.applyDeltaEntry e rest u).besidesLines = s.besidesLines := by
  unfold applyDeltaEntry
  dsimp only
  split
  · rfl
  · split <;> simp

/-! ### The decision on an update -/

@[simp] theorem besidesLines_queueApply (u : Update) (cause : ApplyCause) :
    (s.queueApply u cause).besidesLines = s.besidesLines := rfl

@[simp] theorem besidesLines_raiseRec (u : Update) (content : Content) :
    (s.raiseRec u content).besidesLines = s.besidesLines := rfl

@[simp] theorem besidesLines_decideUpdate (u : Update) : (s.decideUpdate u).1.besidesLines = s.besidesLines := by
  have hd := s.decideUpdate_decided u
  generalize (s.decideUpdate u).1 = t at hd ⊢
  cases hd with
  | raised =>
    unfold raiseAndQueue
    dsimp only
    rw [besidesLines_drainTest]
    split <;> simp
  | stale =>
    unfold raiseStale
    dsimp only
    rw [besidesLines_drainTest]
    split <;> simp
  | heal => rfl
  | unchanged => rfl

/-! ### Returns and deadlines -/

@[simp] theorem besidesLines_reportSlot (i : SlotNo) (generation : BitVec 4) :
    (s.reportSlot i generation).besidesLines = s.besidesLines := by
  unfold reportSlot
  dsimp only
  split
  · rfl
  · split <;> rfl

@[simp] theorem besidesLines_updateReturn (i : SlotNo) (u : SlotUse) (missed : Bool) :
    (s.updateReturn i u missed).besidesLines = s.besidesLines := by
  unfold updateReturn
  dsimp only
  (repeat' split) <;> simp

@[simp] theorem besidesLines_updateDeadline (i : SlotNo) (u : SlotUse) :
    (s.updateDeadline i u).besidesLines = s.besidesLines := by
  unfold updateDeadline
  dsimp only
  (repeat' split) <;> simp

@[simp] theorem besidesLines_repairUnanswered (i : SlotNo) (u : SlotUse) :
    (s.repairUnanswered i u).besidesLines = s.besidesLines := by
  unfold repairUnanswered
  split <;> rfl

@[simp] theorem besidesLines_returnFrame (f : List Byte) (p : Purpose) :
    (s.returnFrame f p).besidesLines = s.besidesLines := by
  unfold returnFrame
  dsimp only
  (repeat' split) <;> simp

/-! ### Accesses -/

@[simp] theorem besidesLines_takeAccess (a : Access) :
    (s.takeAccess a).besidesLines =
      { s.besidesLines with access := (s.takeAccess a).access, completion := (s.takeAccess a).completion } := by
  rw [takeAccess_frame]; rfl

end

/-! ## The Framer's moves -/

/-- What the Framer may change beside the lines: its choice, and the Forwarding Unit's place, into which it hands a frame. -/
structure FramerMoves (s t : State) : Prop where
  besides : t.besidesLines = { s.besidesLines with build := t.build, place := t.place }
  place : t.place = s.place ∨ ∃ f, t.place = some f

/-- A move that hands nothing over. -/
theorem FramerMoves.of_choice {s t : State} (b : Option Build) (h : t.besidesLines = { s.besidesLines with build := b }) :
    FramerMoves s t := by
  have hbuild : t.besidesLines.build = b := by rw [h]
  have hplace : t.besidesLines.place = s.place := by rw [h]; rfl
  refine ⟨?_, .inl hplace⟩
  rw [h, show t.place = s.place from hplace, show t.build = b from hbuild]
  rfl

/-- A move that hands a frame over. -/
theorem FramerMoves.of_handOver {s t : State} (f : List Byte)
    (h : t.besidesLines = { s.besidesLines with build := none, place := some f }) : FramerMoves s t := by
  have hbuild : t.besidesLines.build = none := by rw [h]
  have hplace : t.besidesLines.place = some f := by rw [h]
  refine ⟨?_, .inr ⟨f, hplace⟩⟩
  rw [h, show t.place = some f from hplace, show t.build = none from hbuild]

/-- Lines may move without the Framer. -/
theorem FramerMoves.of_lines {s t : State} (h : t.besidesLines = s.besidesLines) : FramerMoves s t :=
  .of_choice s.build (h.trans rfl)

/-- Storage faults before a build are among what it may leave. -/
theorem FramerMoves.of_strike {s t : State} {line : Nat} {u : Option Upset} (h : FramerMoves (s.strike line u) t) :
    FramerMoves s t :=
  ⟨by simpa using h.besides, by simpa using h.place⟩

section
variable (s : State)

@[simp] theorem besidesLines_abandonBuild : s.abandonBuild.besidesLines = { s.besidesLines with build := none } := rfl

@[simp] theorem besidesLines_handOver (f : List Byte) :
    (s.handOver f).besidesLines = { s.besidesLines with build := none, place := some f } := rfl

theorem framerMoves_buildRequest (i : SlotNo) (u : SlotUse) : FramerMoves s (s.buildRequest i u) :=
  .of_handOver _ rfl

theorem framerMoves_serveDue (i : SlotNo) : FramerMoves s (s.serveDue i) := by
  unfold serveDue
  split
  · exact .of_lines rfl
  · split
    · exact s.framerMoves_buildRequest i _
    · exact .of_choice _ rfl
    · exact .of_choice _ rfl
    · exact .of_choice _ rfl
    · exact .of_lines rfl

theorem framerMoves_serveSweep : FramerMoves s s.serveSweep := by
  unfold serveSweep
  split
  · exact .of_choice _ rfl
  · exact .of_lines (by simp)
  · exact .of_lines rfl

/-- A choice that serves no probe (R57, R58). -/
theorem framerMoves_choose (h : s.probeReady = false) : FramerMoves s s.choose := by
  unfold choose
  rw [if_neg (by simp [h])]
  split
  · exact .of_lines rfl
  · split
    · exact s.framerMoves_serveDue _
    · split
      · exact .of_choice _ rfl
      · split
        · exact s.framerMoves_buildRequest _ _
        · split
          · exact .of_choice _ rfl
          · split
            · exact s.framerMoves_serveSweep
            · exact .of_lines rfl

theorem framerMoves_buildPost (line : Nat) : FramerMoves s (s.buildPost line) := by
  unfold buildPost
  dsimp only
  split
  · exact .of_choice none (by simp)
  · split
    · next p i _ _ => exact .of_handOver (s.postFrame i line (s.lineRec line) p) (by simp)
    · exact .of_choice none rfl

theorem framerMoves_freeUnfit (i : SlotNo) (line : Nat) : FramerMoves s (s.freeUnfit i line) :=
  .of_choice none (by simp [freeUnfit])

theorem framerMoves_checkFailure_freeUnfit (i : SlotNo) (line : Nat) :
    FramerMoves s ((s.checkFailure line).freeUnfit i line) :=
  .of_choice none (by simp [freeUnfit])

theorem framerMoves_buildMendResend (i : SlotNo) (u : SlotUse) : FramerMoves s (s.buildMendResend i u) := by
  unfold buildMendResend
  dsimp only
  split
  · exact s.framerMoves_checkFailure_freeUnfit i u.line
  · split
    · exact .of_handOver (s.buildFull false (s.nextTag i) u.line u.stamp (s.lineBytes u.line)) (by simp)
    · exact s.framerMoves_freeUnfit i u.line

theorem framerMoves_buildReplacement (i : SlotNo) (u : SlotUse) : FramerMoves s (s.buildReplacement i u) := by
  unfold buildReplacement
  dsimp only
  split
  · exact s.framerMoves_checkFailure_freeUnfit i u.line
  · split
    · split
      · exact .of_handOver (s.buildFull false (s.nextTag i) u.line (s.lineRec u.line).stamp (s.lineBytes u.line))
          (by simp)
      · exact s.framerMoves_freeUnfit i u.line
    all_goals exact s.framerMoves_freeUnfit i u.line

theorem framerMoves_buildAnswer (line : Nat) (rest : List Nat) :
    FramerMoves { s with answerQueue := rest } (s.buildAnswer line rest) := by
  unfold buildAnswer
  dsimp only
  split
  · exact .of_choice none (by simp)
  · split
    · exact .of_handOver _ rfl
    · exact .of_choice none rfl

theorem framerMoves_fetchSweep (line : Nat) : FramerMoves s (s.fetchSweep line) := by
  unfold fetchSweep
  split
  · exact .of_choice none (by simp)
  · split
    · exact .of_handOver _ rfl
    · exact .of_choice none (by simp)
    · exact .of_choice none rfl

end
end State
end Sys2Proof.Machine

/-! # Outside ONLINE no slot is in use

The Framer's choice and the slots stand in ONLINE alone (R57, R58, R94): a step in ONLINE stays there or abandons them, and
outside ONLINE no step has one to move. -/

namespace Sys2Proof.Machine
namespace State

/-- What does not look at the lines is the same. -/
theorem station_of_besidesLines {s t : State} (h : t.besidesLines = s.besidesLines) : t.station = s.station := by
  have hstation : t.besidesLines.station = s.besidesLines.station := by rw [h]
  exact hstation

theorem FramerMoves.station {s t : State} (h : FramerMoves s t) : t.station = s.station := by
  have hstation : t.besidesLines.station = s.station := by rw [h.besides]; rfl
  exact hstation

@[simp] theorem reportProbe_station (s : State) (number : BitVec 8) : (s.reportProbe number).station = s.station := by
  unfold reportProbe
  (repeat' split) <;> rfl

@[simp] theorem reportProbe_slots (s : State) (number : BitVec 8) : (s.reportProbe number).slots = s.slots := by
  unfold reportProbe
  (repeat' split) <;> rfl

@[simp] theorem reportProbe_build (s : State) (number : BitVec 8) : (s.reportProbe number).build = s.build := by
  unfold reportProbe
  (repeat' split) <;> rfl

@[simp] theorem reportSlot_station (s : State) (i : SlotNo) (generation : BitVec 4) :
    (s.reportSlot i generation).station = s.station :=
  station_of_besidesLines (by simp)

@[simp] theorem reportInsertion_station (s : State) (f : List Byte) : (s.reportInsertion f).station = s.station := by
  unfold reportInsertion
  (repeat' split) <;> simp

theorem slots_eq_of_slot {s t : State} (h : t.slots = s.slots) (i : SlotNo) : t.slot i = s.slot i := by
  simp only [slot, h]

/-- The report of a slot that is free sets nothing (R80). -/
theorem reportSlot_of_free {s : State} {i : SlotNo} (h : (s.slot i).use = none) (generation : BitVec 4) :
    s.reportSlot i generation = s := by
  simp [reportSlot, h]

namespace QuietOutsideOnline

theorem of_online {s : State} (h : s.station = .online) : s.QuietOutsideOnline := fun hne => absurd h hne

theorem of_idle {s : State} (hbuild : s.build = none) (hslots : ∀ i, (s.slot i).use = none) : s.QuietOutsideOnline :=
  fun _ => ⟨hbuild, hslots⟩

variable {s : State} (h : s.QuietOutsideOnline)
include h

theorem of_same {t : State} (hstation : t.station = s.station) (hbuild : t.build = s.build) (hslots : t.slots = s.slots) :
    t.QuietOutsideOnline := by
  intro hne
  obtain ⟨hidle, hfree⟩ := h (hstation ▸ hne)
  exact ⟨hbuild.trans hidle, fun i => by rw [slots_eq_of_slot hslots]; exact hfree i⟩

omit h in
/-- A step within the state ONLINE may do anything to the slots and the choice. -/
theorem of_station {t : State} (hstation : t.station = s.station)
    (hidle : s.station ≠ .online → t.build = none ∧ ∀ i, (t.slot i).use = none) : t.QuietOutsideOnline :=
  fun hne => hidle (hstation ▸ hne)

theorem online_of_build {b : Build} (hb : s.build = some b) : s.station = .online := by
  by_contra hne
  rw [(h hne).1] at hb
  cases hb

theorem online_of_slot {i : SlotNo} {u : SlotUse} (hu : (s.slot i).use = some u) : s.station = .online := by
  by_contra hne
  rw [(h hne).2 i] at hu
  cases hu

omit h in
theorem framerMoves {t : State} (hm : FramerMoves s t) (hon : s.station = .online) : t.QuietOutsideOnline :=
  .of_online (hm.station.trans hon)

omit h in
theorem enterIsolated (detail : RingDownDetail) : (s.enterIsolated detail).QuietOutsideOnline := by
  obtain ⟨place, notices, drainPending, ht⟩ := s.enterIsolated_frame detail
  have huse := s.abandonSlots_use
  rw [ht]
  generalize s.abandonSlots = t at huse
  exact .of_idle rfl huse

omit h in
theorem depart (target : StationState) : (s.depart target).QuietOutsideOnline := by
  obtain ⟨lines, fifo, place, linkMode, switchAsked, ht⟩ := s.depart_frame target
  have huse := s.abandonSlots_use
  rw [ht]
  generalize s.abandonSlots = t at huse
  exact .of_idle rfl huse

theorem endDrain : s.endDrain.QuietOutsideOnline := by
  rw [endDrain_frame]
  exact h.of_same rfl rfl rfl

theorem give (n : Notice) : (s.give n).QuietOutsideOnline := h.of_same rfl rfl rfl

theorem answer (code : BitVec 8) (arg : BitVec 16) (result : CommandResult) :
    (s.answer code arg result).QuietOutsideOnline := h.of_same rfl rfl rfl

omit h in
theorem enterFault : s.enterFault.QuietOutsideOnline := by
  have hd : (s.depart .fault).QuietOutsideOnline := depart .fault
  unfold State.enterFault
  generalize s.depart .fault = t at hd
  exact (hd.give .identityClash).endDrain

theorem loseProbe : s.loseProbe.QuietOutsideOnline := by
  have ht : { s with probe := { s.probe with outstanding := none, losses := min 3 (s.probe.losses + 1) } }.QuietOutsideOnline :=
    h.of_same rfl rfl rfl
  unfold State.loseProbe
  dsimp only
  split
  · exact enterIsolated .probes
  · exact ht

theorem buildProbe : s.buildProbe.QuietOutsideOnline := by
  have hand : ∀ {t : State} (p : ProbeRecord) (f : List Byte), t.QuietOutsideOnline →
      ({ t with probe := p }.handOver f).QuietOutsideOnline :=
    fun p f ht hne => ⟨rfl, (ht hne).2⟩
  unfold State.buildProbe
  dsimp only
  split
  · exact hand _ _ h.loseProbe
  · exact hand _ _ h
  · exact hand _ _ h

theorem choose : s.choose.QuietOutsideOnline := by
  by_cases hp : s.probeReady = true
  · rw [State.choose, if_pos hp]
    exact h.buildProbe
  · by_cases hon : s.station = .online
    · exact framerMoves (s.framerMoves_choose (Bool.eq_false_iff.2 hp)) hon
    · rw [State.choose, if_neg hp, if_pos hon]
      exact h

theorem reportInsertion (f : List Byte) : (s.reportInsertion f).QuietOutsideOnline := by
  refine of_station (s.reportInsertion_station f) fun hne => ?_
  obtain ⟨hidle, hfree⟩ := h hne
  have hslot : ∀ i g, s.reportSlot i g = s := fun i g => reportSlot_of_free (hfree i) g
  unfold State.reportInsertion
  split
  · exact ⟨by simpa using hidle, fun i => by
      rw [slots_eq_of_slot (s.reportProbe_slots _)]; exact hfree i⟩
  · split
    · exact ⟨hidle, hfree⟩
    · rw [hslot]; exact ⟨hidle, hfree⟩
  · split
    · exact ⟨hidle, hfree⟩
    · rw [hslot]; exact ⟨hidle, hfree⟩
  · rw [hslot]; exact ⟨hidle, hfree⟩
  · exact ⟨hidle, hfree⟩

/-- A probe's return enters ONLINE or keeps the station state (R163). -/
theorem probeReturns (map : BitVec 32) : (s.probeReturns map).QuietOutsideOnline := by
  have hgive : ∀ {t : State} (n : Notice), t.QuietOutsideOnline → (t.give n).QuietOutsideOnline :=
    fun n ht => ht.give n
  have hstate : (if s.station = .joining ∨ s.station = .isolated then
      ({ s with
          membership := map, probe := { s.probe with losses := 0, outstanding := none }, station := .online }
        : State).give .ringUp
      else { s with membership := map, probe := { s.probe with losses := 0, outstanding := none } }).QuietOutsideOnline := by
    split
    · exact .of_online rfl
    · exact h.of_same rfl rfl rfl
  unfold State.probeReturns
  dsimp only
  split
  · exact hstate
  · exact hgive _ hstate

theorem returnFrame (f : List Byte) (p : Purpose) : (s.returnFrame f p).QuietOutsideOnline := by
  by_cases hon : s.station = .online
  · exact .of_online ((station_of_besidesLines (by simp)).trans hon)
  · simpa [State.returnFrame, (h hon).2] using h

theorem strip (f : List Byte) : (s.strip f).QuietOutsideOnline := by
  unfold State.strip
  split
  · unfold State.stripProbe
    split
    · exact QuietOutsideOnline.enterFault
    · split
      · exact h.probeReturns _
      · exact h
  · split
    · exact h
    · exact h.returnFrame f _
  · split
    · exact h
    · exact h.returnFrame f _
  · exact h.returnFrame f _
  · exact h

end QuietOutsideOnline
end State
end Sys2Proof.Machine

/-! # The ring side

Ring-out, the Bypass FIFO, the place and the switches of the Forwarding Unit, beside the station state (R136 to R139, R143,
R144). -/

namespace Sys2Proof.Machine

/-- What the Forwarding Unit holds, with the station state it follows. -/
structure RingSide where
  station : StationState
  linkMode : LinkMode
  switchAsked : Bool
  fifo : List (List Byte)
  sending : Sending
  place : Option (List Byte)
  receiving : Bool

namespace State

def ringSide (s : State) : RingSide where
  station := s.station
  linkMode := s.linkMode
  switchAsked := s.switchAsked
  fifo := s.fifo
  sending := s.sending
  place := s.place
  receiving := s.receiving

theorem ringSide_of_besidesLines {s t : State} (h : t.besidesLines = s.besidesLines) : t.ringSide = s.ringSide := by
  have hring : t.besidesLines.ringSide = s.besidesLines.ringSide := by rw [h]
  exact hring

theorem build_of_besidesLines {s t : State} (h : t.besidesLines = s.besidesLines) : t.build = s.build := by
  have hbuild : t.besidesLines.build = s.besidesLines.build := by rw [h]
  exact hbuild

/-! ## The commands that leave the ring side as it is -/

/-- The ring side and the Framer's choice stay, and a free slot stays free. -/
structure LeavesRing (s t : State) : Prop where
  ring : t.ringSide = s.ringSide
  build : t.build = s.build
  free : ∀ i, (s.slot i).use = none → (t.slot i).use = none

theorem LeavesRing.of_same {s t : State} (hring : t.ringSide = s.ringSide) (hbuild : t.build = s.build)
    (hslots : t.slots = s.slots) : LeavesRing s t :=
  ⟨hring, hbuild, fun i hi => by rw [slots_eq_of_slot hslots]; exact hi⟩

theorem LeavesRing.of_besidesLines {s t : State} (h : t.besidesLines = s.besidesLines) (hslots : t.slots = s.slots) :
    LeavesRing s t :=
  .of_same (ringSide_of_besidesLines h) (build_of_besidesLines h) hslots

theorem LeavesRing.refl (s : State) : LeavesRing s s := .of_same rfl rfl rfl

theorem LeavesRing.trans {s t u : State} (h : LeavesRing s t) (h' : LeavesRing t u) : LeavesRing s u :=
  ⟨h'.ring.trans h.ring, h'.build.trans h.build, fun i hi => h'.free i (h.free i hi)⟩

theorem LeavesRing.quiet {s t : State} (h : LeavesRing s t) (hs : s.QuietOutsideOnline) : t.QuietOutsideOnline := by
  have hstation : t.station = s.station := congrArg RingSide.station h.ring
  exact .of_station hstation fun hne => ⟨h.build.trans (hs hne).1, fun i => h.free i ((hs hne).2 i)⟩

/-! ### Which slots a return or a deadline moves -/

theorem slot_updateDeadline_other (s : State) {i j : SlotNo} (u : SlotUse) (h : j ≠ i) :
    (s.updateDeadline i u).slot j = s.slot j := by
  unfold updateDeadline
  dsimp only
  (repeat' split) <;> simp [slot_freeSlot_other s h, slot_makeDue_other s _ _ _ h]

theorem slot_repairUnanswered_other (s : State) {i j : SlotNo} (u : SlotUse) (h : j ≠ i) :
    (s.repairUnanswered i u).slot j = s.slot j := by
  unfold repairUnanswered
  split <;> simp [slot_freeSlot_other s h, slot_makeDue_other s _ _ _ h]

/-- A step that moves one slot, in use, leaves the free ones. -/
theorem LeavesRing.of_slot {s t : State} {i : SlotNo} {u : SlotUse} (h : t.besidesLines = s.besidesLines)
    (hu : (s.slot i).use = some u) (hother : ∀ j, j ≠ i → t.slot j = s.slot j) : LeavesRing s t := by
  refine ⟨ringSide_of_besidesLines h, build_of_besidesLines h, fun j hj => ?_⟩
  by_cases hij : j = i
  · subst hij; rw [hu] at hj; cases hj
  · rw [hother j hij]; exact hj

/-! ### The Apply Unit, accesses and the clearing pass -/

theorem giveApplied_slots (s : State) (e : ApplyEntry) : (s.giveApplied e).slots = s.slots := by
  unfold giveApplied
  dsimp only
  split <;> rfl

theorem use_freeRepairSlot {s : State} (line : Nat) {i : SlotNo} (h : (s.slot i).use = none) :
    ((s.freeRepairSlot line).slot i).use = none := by
  rw [slot_freeRepairSlot]
  split
  · rfl
  · exact h

theorem leavesRing_applyFullEntry (s : State) (e : ApplyEntry) (rest : List ApplyEntry) :
    LeavesRing s (s.applyFullEntry e rest) := by
  refine ⟨ringSide_of_besidesLines (by simp), build_of_besidesLines (by simp), fun i hi => ?_⟩
  unfold applyFullEntry
  dsimp only
  rw [slots_eq_of_slot (giveApplied_slots _ _), popApply_slot]
  split
  · split
    · exact hi
    · exact use_freeRepairSlot _ hi
  · exact hi

theorem leavesRing_applyDeltaEntry (s : State) (e : ApplyEntry) (rest : List ApplyEntry) (u : Option Upset) :
    LeavesRing s (s.applyDeltaEntry e rest u) := by
  refine .of_besidesLines (by simp) ?_
  unfold applyDeltaEntry
  dsimp only
  split
  · rfl
  · split
    · simp
    · rw [giveApplied_slots]; exact strike_slots _ _ _

theorem leavesRing_resumeApplied (s : State) : LeavesRing s s.resumeApplied := by
  rw [resumeApplied_frame]
  exact .of_same rfl rfl rfl

theorem leavesRing_takeAccess (s : State) (a : Access) : LeavesRing s (s.takeAccess a) := by
  rw [takeAccess_frame]
  exact .of_same rfl rfl rfl

theorem leavesRing_strikeAndBind (s : State) (a : Access) (u : Option Upset) :
    LeavesRing s ((s.strike (lineOf a.la) u).bindHold a) := by
  rw [bindHold_eq]
  rw [strike_frame]
  exact .of_same rfl rfl rfl

theorem leavesRing_readWord (s : State) (la : BitVec 15) : LeavesRing s (s.readWord la) := by
  unfold readWord
  dsimp only
  split
  · rw [drainTest_frame, checkFailure_frame]
    exact .of_same rfl rfl rfl
  · split <;> exact .of_same rfl rfl rfl

theorem leavesRing_writeWord (s : State) (la : BitVec 15) (be : BitVec 4) (ld : Word) :
    LeavesRing s (s.writeWord la be ld) := by
  unfold writeWord
  dsimp only
  split
  · split
    · exact .of_same rfl rfl rfl
    · rw [drainTest_frame, checkFailure_frame]
      exact .of_same rfl rfl rfl
  · exact .of_same rfl rfl rfl

theorem leavesRing_resumeCleared (s : State) : LeavesRing s s.resumeCleared := by
  rw [resumeCleared_frame]
  exact .of_same rfl rfl rfl

theorem leavesRing_clearLine (s : State) : LeavesRing s s.clearLine := by
  unfold clearLine
  split
  · next line _ =>
    have hwrite : ∀ (bytes : List Byte) (p : ResetPhase), LeavesRing s { s.writeLine line bytes with phase := p } :=
      fun _ _ => .of_same rfl rfl rfl
    dsimp only
    split
    · exact hwrite _ _
    · exact (hwrite _ .ended).trans (leavesRing_resumeCleared _)
  all_goals exact .refl s

theorem leavesRing_sampleHold (s : State) (lhold noByte : Bool) : LeavesRing s (s.sampleHold lhold noByte) := by
  rw [sampleHold_frame]
  exact .of_same rfl rfl rfl

/-! ### The rule -/

/-- The commands of the port, of the control window, of the Apply Unit and of the slots' deadlines. -/
def leavesRingSide : Instr → Bool
  | .resetRelease | .clearingPassClaim | .replicaRead _ _ | .readClaimGranted _ | .replicaWrite _ _ _ _
  | .writeClaimGranted _ | .configWrite _ _ | .drain _ | .watch _ | .unwatch _ | .query _ | .intenable _
  | .unknownCommand _ | .statusRead | .noticeRead | .readOnlyWrite _ _ _ | .unassignedAccess _ _ | .lholdDeasserted
  | .holdBreak | .carrierRegained | .applyFull | .applyDelta _ | .updateDeadline _ | .repairDeadline _
  | .probeIntervalExpiry | .sweepTick => true
  | _ => false

theorem exec_leavesRingSide {i : Instr} (hi : leavesRingSide i = true) (s : State) :
    Result.Meets (exec i s) (LeavesRing s) := by
  cases i
  case resetRelease =>
    simp only [exec, execResetRelease, Result.meets_next, releaseReset]
    split <;> exact .of_same rfl rfl rfl
  case clearingPassClaim => exact Result.meets_next.2 s.leavesRing_clearLine
  case replicaRead la lhold =>
    simp only [exec, execReplicaRead, Result.meets_next]
    split
    · exact (s.leavesRing_sampleHold _ _).trans (leavesRing_takeAccess _ _)
    · exact .refl s
  case replicaWrite la be ld lhold =>
    simp only [exec, execReplicaWrite, Result.meets_next]
    split
    · exact (s.leavesRing_sampleHold _ _).trans (leavesRing_takeAccess _ _)
    · exact .refl s
  case readClaimGranted u =>
    exact execReadClaimGranted_meets (.refl s) u (fun _ _ => .of_same rfl rfl rfl)
      fun a _ => (s.leavesRing_strikeAndBind a u).trans (leavesRing_readWord _ _)
  case writeClaimGranted u =>
    exact execWriteClaimGranted_meets (.refl s) u (fun _ _ => .of_same rfl rfl rfl)
      fun a be ld _ => (s.leavesRing_strikeAndBind a u).trans (leavesRing_writeWord _ _ _ _)
  case configWrite =>
    simp only [exec, execConfigWrite, Result.meets_next]
    (repeat' split) <;> exact .of_same rfl rfl rfl
  case drain =>
    simp only [exec, execDrain, Result.meets_next]
    split
    · exact .refl s
    · split
      · exact .of_same rfl rfl rfl
      · split
        · exact .of_same rfl rfl rfl
        · rw [drainTest_frame]
          exact .of_same rfl rfl rfl
  case watch => exact execWatch_meets (.refl s) _ (.of_same rfl rfl rfl) fun _ => .of_same rfl rfl rfl
  case unwatch => exact execUnwatch_meets (.refl s) _ (.of_same rfl rfl rfl) fun _ => .of_same rfl rfl rfl
  case query => exact execQuery_meets (.refl s) _ (.of_same rfl rfl rfl) fun _ => .of_same rfl rfl rfl
  case intenable =>
    simp only [exec, execIntenable, Result.meets_next]
    split <;> exact .of_same rfl rfl rfl
  case unknownCommand =>
    simp only [exec, execUnknownCommand, Result.meets_next]
    split <;> exact .of_same rfl rfl rfl
  case statusRead =>
    simp only [exec, execStatusRead, Result.meets_next]
    split <;> exact .of_same rfl rfl rfl
  case noticeRead =>
    simp only [exec, execNoticeRead, Result.meets_next]
    split <;> exact .of_same rfl rfl rfl
  case readOnlyWrite =>
    simp only [exec, execReadOnlyWrite, Result.meets_next]
    split <;> exact .of_same rfl rfl rfl
  case unassignedAccess =>
    simp only [exec, execUnassignedAccess, Result.meets_next]
    split <;> exact .of_same rfl rfl rfl
  case lholdDeasserted =>
    simp only [exec, execLholdDeasserted, Result.meets_next]
    split <;> exact .of_same rfl rfl rfl
  case holdBreak =>
    simp only [exec, execHoldBreak, Result.meets_next]
    split
    · rw [failWaiting_frame]
      exact .of_same rfl rfl rfl
    all_goals exact .refl s
  case carrierRegained =>
    simp only [exec, execCarrierRegained, Result.meets_next]
    split <;> exact .of_same rfl rfl rfl
  case applyFull =>
    exact execApplyFull_meets (.refl s) fun e rest _ _ _ =>
      (s.leavesRing_applyFullEntry e rest).trans (leavesRing_resumeApplied _)
  case applyDelta u =>
    exact execApplyDelta_meets (.refl s) u fun e rest _ _ _ =>
      (s.leavesRing_applyDeltaEntry e rest u).trans (leavesRing_resumeApplied _)
  case updateDeadline i =>
    refine execUpdateDeadline_meets (.refl s) i fun u d hu _ _ => ?_
    have hreach : LeavesRing s (s.reach d) := .of_same rfl rfl rfl
    exact hreach.trans (.of_slot (by simp) (i := i) hu fun j hj => slot_updateDeadline_other _ u hj)
  case repairDeadline i =>
    refine execRepairDeadline_meets (.refl s) i fun u d hu _ _ => ?_
    have hreach : LeavesRing s (s.reach d) := .of_same rfl rfl rfl
    exact hreach.trans (.of_slot (by simp) (i := i) hu fun j hj => slot_repairUnanswered_other _ u hj)
  case probeIntervalExpiry =>
    simp only [exec, execProbeIntervalExpiry, Result.meets_next]
    split <;> exact .of_same rfl rfl rfl
  case sweepTick =>
    simp only [exec, execSweepTick, Result.meets_next]
    split <;> exact .of_same rfl rfl rfl
  all_goals cases hi

end State
end Sys2Proof.Machine

namespace Sys2Proof.Machine
namespace State

/-! ## Entry to ISOLATED and departure, whole -/

/-- The waiting own frame that a test takes away unless its insertion has begun (R76). -/
theorem withdraw_place (s : State) (test : List Byte → Bool) :
    (s.withdraw test).place = s.place.filter fun f => s.sending == .own || !test f := by
  unfold withdraw
  cases hplace : s.place with
  | none => exact hplace
  | some f =>
    by_cases hsending : s.sending = .own <;> cases htest : test f <;>
      simp [hsending, htest, hplace, Option.filter_some]

/-- The state that entry to ISOLATED comes to, its drain test still to be made (R155). -/
def isolated (s : State) (detail : RingDownDetail) : State :=
  { s with
    slots := s.abandonSlots.slots, lines := s.abandonSlots.lines, postList := s.abandonSlots.postList
    place := placeIsolated s, build := none, station := .isolated
    notices := noticesAfter s.notices (if s.station = .online then [.ringDown detail] else []) }

theorem enterIsolated_eq (s : State) (detail : RingDownDetail) :
    s.enterIsolated detail = (s.isolated detail).drainTest := by
  have hframe := s.abandonSlots_frame
  have hplace : (s.abandonSlots.withdraw fun f => Frame.kind f != .probe).place = placeIsolated s := by
    rw [withdraw_place, placeIsolated]
    simp only [bne, Bool.not_not, abandonSlots_sending, abandonSlots_place]
  unfold enterIsolated isolated
  rw [withdraw_frame, hplace]
  generalize s.abandonSlots = t at hframe
  rw [hframe]
  dsimp only
  split <;> rfl

/-- The Bypass FIFO after departure: the frame being sent alone (R138). -/
def fifoDeparted (s : State) : List (List Byte) :=
  match s.sending with
  | .forwarded _ => s.fifo.take 1
  | .idle | .own => []

/-- The Forwarding Unit's mode after departure: the switch that can be made at once is made (R138; log 19). -/
def linkModeDeparted (s : State) : LinkMode :=
  if s.linkMode = .active ∧ s.sending = .idle then .idleUntilStart else s.linkMode

/-- The state that departure comes to, its notices still to be given (R154, R156). -/
def departed (s : State) (target : StationState) : State :=
  { s with
    slots := s.abandonSlots.slots, lines := s.abandonSlots.unlistAll.lines, postList := s.abandonSlots.postList
    repairList := [], answerQueue := [], build := none, station := target, membership := 0
    probe := { s.probe with due := false, outstanding := none, timer := none, losses := 0 }
    receiving := false, fifo := s.fifoDeparted, place := if s.sending = .own then s.place else none
    linkMode := s.linkModeDeparted, switchAsked := decide (s.linkMode = .active ∧ s.sending ≠ .idle) }

theorem leaveRing_eq (s : State) :
    s.leaveRing =
      { s with
        receiving := false, fifo := s.fifoDeparted, place := if s.sending = .own then s.place else none
        linkMode := s.linkModeDeparted, switchAsked := decide (s.linkMode = .active ∧ s.sending ≠ .idle) } := by
  have hplace : (s.withdraw fun _ => true).place = if s.sending = .own then s.place else none := by
    rw [withdraw_place]
    split
    · next h => cases s.place <;> simp [h]
    · next h => simp [h]
  unfold leaveRing
  rw [withdraw_frame, hplace]
  dsimp only [fifoDeparted, linkModeDeparted]
  split
  · next hmode =>
    split
    · next hsending => simp [hmode, hsending]
    · next hsending => simp [hmode, hsending] <;> rfl
  · next hmode => simp [hmode] <;> rfl
  · next hmode => simp [hmode] <;> rfl

theorem lines_of_holdings {s t : State} (h : t.holdings = s.holdings) : t.lines = s.lines := congrArg Holdings.lines h

theorem unlistAll_frame (s : State) : s.unlistAll = { s with repairList := [], lines := s.unlistAll.lines } := rfl

theorem unlistAll_lines_congr {s t : State} (h : t.lines = s.lines) : t.unlistAll.lines = s.unlistAll.lines := by
  simp only [unlistAll, h]

theorem depart_eq (s : State) (target : StationState) : s.depart target = s.departed target := by
  have hframe := s.abandonSlots_frame
  have hlines : s.abandonSlots.leaveRing.lines = s.abandonSlots.lines :=
    lines_of_holdings s.abandonSlots.holdings_leaveRing
  unfold depart departed resetMembership
  rw [unlistAll_frame, unlistAll_lines_congr hlines, leaveRing_eq]
  generalize s.abandonSlots.unlistAll.lines = lines
  generalize s.abandonSlots = t at hframe
  rw [hframe]
  rfl

end State
end Sys2Proof.Machine

namespace Sys2Proof.Machine

/-! ## The invariant of the ring side -/

/-- Ring-out, the Bypass FIFO, the place and the switches agree with one another and with the station state. -/
structure State.RingAgrees (s : State) : Prop where
  head : ∀ n, s.sending = .forwarded n → ∃ f rest, s.fifo = f :: rest ∧ n ≤ f.length
  own : s.sending = .own → s.place.isSome = true
  bytes : s.fifoBytes ≤ 128
  switches : s.station.isActive = ((s.linkMode == .active) != s.switchAsked)
  passing : s.linkMode ≠ .active → s.fifo = [] ∧ s.sending = .idle ∧ s.receiving = false
  leaving : s.linkMode = .active → s.switchAsked = true →
    s.receiving = false ∧ s.fifo.length ≤ 1 ∧ (s.fifo ≠ [] → ∃ n, s.sending = .forwarded n)
  gone : s.station.isActive = false → s.place.isSome = true → s.sending = .own

theorem State.ringAgrees_iff (s : State) : s.RingAgrees ↔ s.SendingAgrees ∧ s.LinkAgrees := by
  constructor
  · rintro ⟨hhead, hown, hbytes, hswitches, hpassing, hleaving, hgone⟩
    exact ⟨⟨hhead, hown, hbytes⟩, hswitches, hpassing, hleaving, hgone⟩
  · rintro ⟨⟨hhead, hown, hbytes⟩, hswitches, hpassing, hleaving, hgone⟩
    exact ⟨hhead, hown, hbytes, hswitches, hpassing, hleaving, hgone⟩

/-- The bytes that a FIFO holds, `n` of the head's having left it. -/
theorem State.fifoBytes_of_forwarded {s : State} {n : Nat} (h : s.sending = .forwarded n) :
    s.fifoBytes = (s.fifo.map List.length).sum - n := by
  simp [State.fifoBytes, h]

theorem State.fifoBytes_of_not_forwarded {s : State} (h : ∀ n, s.sending ≠ .forwarded n) :
    s.fifoBytes = (s.fifo.map List.length).sum := by
  unfold State.fifoBytes
  cases hsending : s.sending with
  | forwarded n => exact absurd hsending (h n)
  | idle => rfl
  | own => rfl

theorem State.fifoBytes_le_of_sum {s t : State} (hsending : t.sending = s.sending)
    (hsum : (t.fifo.map List.length).sum ≤ (s.fifo.map List.length).sum) : t.fifoBytes ≤ s.fifoBytes := by
  simp only [State.fifoBytes, hsending]
  exact Nat.sub_le_sub_right hsum _

namespace State.RingAgrees

/-- The invariant looks at the ring side alone. -/
theorem of_ringSide {s t : State} (h : s.RingAgrees) (e : t.ringSide = s.ringSide) : t.RingAgrees := by
  have hstation : t.station = s.station := congrArg RingSide.station e
  have hmode : t.linkMode = s.linkMode := congrArg RingSide.linkMode e
  have hasked : t.switchAsked = s.switchAsked := congrArg RingSide.switchAsked e
  have hfifo : t.fifo = s.fifo := congrArg RingSide.fifo e
  have hsending : t.sending = s.sending := congrArg RingSide.sending e
  have hplace : t.place = s.place := congrArg RingSide.place e
  have hreceiving : t.receiving = s.receiving := congrArg RingSide.receiving e
  have hbytes : t.fifoBytes = s.fifoBytes := by simp only [State.fifoBytes, hfifo, hsending]
  refine ⟨?_, ?_, hbytes ▸ h.bytes, ?_, ?_, ?_, ?_⟩
  · rw [hsending, hfifo]; exact h.head
  · rw [hsending, hplace]; exact h.own
  · rw [hstation, hmode, hasked]; exact h.switches
  · rw [hmode, hfifo, hsending, hreceiving]; exact h.passing
  · rw [hmode, hasked, hreceiving, hfifo, hsending]; exact h.leaving
  · rw [hstation, hplace, hsending]; exact h.gone

theorem reset : State.reset.RingAgrees :=
  (State.ringAgrees_iff _).2 ⟨State.sendingAgrees_reset, State.linkAgrees_reset⟩

variable {s : State} (h : s.RingAgrees)
include h

/-- The frames that ring-out has still to send hold their bytes in the FIFO, whatever it has sent of the head. -/
theorem bytes_tail {n : Nat} (hn : s.sending = .forwarded n) : (s.fifo.tail.map List.length).sum ≤ s.fifoBytes := by
  obtain ⟨f, rest, hfifo, hle⟩ := h.head n hn
  rw [State.fifoBytes_of_forwarded hn, hfifo]
  simp only [List.tail_cons, List.map_cons, List.sum_cons]
  omega

/-! ### Changes of station state -/

/-- A station that stays active may hand a frame over or withdraw one whose insertion has not begun. -/
theorem setPlace {place : Option (List Byte)} (hactive : s.station.isActive = true)
    (hplace : s.sending = .own → place.isSome = true) : ({ s with place } : State).RingAgrees :=
  { h with own := hplace, gone := fun hgone => absurd (hactive.symm.trans hgone) nofun }

/-- An active station may enter another active state. -/
theorem setStation {station : StationState} (hactive : s.station.isActive = true) (hstays : station.isActive = true) :
    ({ s with station } : State).RingAgrees :=
  { h with
    switches := hstays.trans (hactive.symm.trans h.switches)
    gone := fun hgone => absurd (hstays.symm.trans hgone) nofun }

theorem framerMoves {t : State} (hm : FramerMoves s t) (hactive : s.station.isActive = true) : t.RingAgrees := by
  have hring : t.ringSide = ({ s with place := t.place } : State).ringSide := by
    have hsame : t.besidesLines.ringSide = ({ s with place := t.place } : State).ringSide := by rw [hm.besides]; rfl
    exact hsame
  refine (h.setPlace hactive fun hown => ?_).of_ringSide hring
  obtain hsame | ⟨f, hf⟩ := hm.place
  · rw [hsame]; exact h.own hown
  · rw [hf]; rfl

theorem enterIsolated (detail : RingDownDetail) (hactive : s.station.isActive = true) :
    (s.enterIsolated detail).RingAgrees := by
  have hplace : ({ s with place := placeIsolated s } : State).RingAgrees := by
    refine h.setPlace hactive fun hown => ?_
    obtain ⟨f, hf⟩ := Option.isSome_iff_exists.1 (h.own hown)
    simp [placeIsolated, hf, hown]
  refine (hplace.setStation (station := .isolated) hactive rfl).of_ringSide ?_
  rw [enterIsolated_eq, ringSide_of_besidesLines (besidesLines_drainTest _), isolated]
  generalize s.abandonSlots = t
  rfl

theorem loseProbe : s.loseProbe.RingAgrees := by
  have ht : { s with probe := { s.probe with outstanding := none, losses := min 3 (s.probe.losses + 1) } }.RingAgrees :=
    h.of_ringSide rfl
  unfold State.loseProbe
  dsimp only
  split
  · next hlost => exact ht.enterIsolated .probes (by rw [hlost.1]; rfl)
  · exact ht

/-- Departure makes the switch to pass-through, asks for it, or cancels one to active (R138; log 19, log 20). -/
theorem depart {target : StationState} (htarget : target.isActive = false) : (s.depart target).RingAgrees := by
  have hsum : (s.fifoDeparted.map List.length).sum ≤ (s.fifo.map List.length).sum := by
    unfold fifoDeparted
    split
    · cases s.fifo <;> simp
    all_goals simp
  have hfifo : ∀ n, s.sending = .forwarded n → s.fifoDeparted = s.fifo.take 1 := fun n hn => by
    simp [fifoDeparted, hn]
  have hempty : (∀ n, s.sending ≠ .forwarded n) → s.fifoDeparted = [] := fun hnot => by
    cases hsending : s.sending with
    | forwarded n => exact absurd hsending (hnot n)
    | idle => simp [fifoDeparted, hsending]
    | own => simp [fifoDeparted, hsending]
  have hidle : s.linkModeDeparted ≠ .active → s.sending = .idle := fun hmode => by
    by_cases hs : s.linkMode = .active ∧ s.sending = .idle
    · exact hs.2
    · rw [linkModeDeparted, if_neg hs] at hmode
      exact (h.passing hmode).2.1
  refine RingAgrees.of_ringSide (s := { s with
    station := target, receiving := false, fifo := s.fifoDeparted, place := if s.sending = .own then s.place else none
    linkMode := s.linkModeDeparted, switchAsked := decide (s.linkMode = .active ∧ s.sending ≠ .idle) }) ?_ ?_
  case refine_2 =>
    rw [depart_eq, departed]
    generalize s.abandonSlots = t
    rfl
  refine ⟨fun n hn => ?_, fun hown => ?_, ?_, ?_, fun hmode => ?_, fun _ hasked => ?_, fun _ hplace => ?_⟩
  · obtain ⟨f, rest, hq, hle⟩ := h.head n hn
    exact ⟨f, [], by simp [hfifo n hn, hq], hle⟩
  · have hown : s.sending = .own := hown
    simpa [hown] using h.own hown
  · refine le_trans (fifoBytes_le_of_sum (s := s) ?_ ?_) h.bytes
    · rfl
    · exact hsum
  · by_cases hmode : s.linkMode = .active
    · by_cases hsending : s.sending = .idle <;> simp [linkModeDeparted, hmode, hsending, htarget]
    · simp [linkModeDeparted, hmode, htarget]
  · have hsending := hidle hmode
    have hnot : ∀ n, s.sending ≠ .forwarded n := fun n hn => by rw [hsending] at hn; cases hn
    exact ⟨hempty hnot, hsending, rfl⟩
  · refine ⟨rfl, ?_, fun hne => ?_⟩
    · show s.fifoDeparted.length ≤ 1
      unfold fifoDeparted
      split
      · simp
      all_goals simp
    · by_contra hnot
      exact hne (hempty fun n hn => hnot ⟨n, hn⟩)
  · by_contra hown
    have hown : s.sending ≠ .own := hown
    simp [hown] at hplace

theorem enterFault : s.enterFault.RingAgrees := by
  have hd : (s.depart .fault).RingAgrees := h.depart rfl
  unfold State.enterFault
  generalize s.depart .fault = t at hd
  exact hd.of_ringSide (ringSide_of_besidesLines (by simp))

/-! ### Frames received whole -/

/-- What ring-out has sent of the head is freed, and is at most all of it (R143). -/
theorem progress (sent : Nat) : (s.progress sent).RingAgrees := by
  unfold State.progress
  split
  · next n f rest hsending hfifo =>
    have hle : n ≤ f.length := by
      obtain ⟨g, tail, hq, hle⟩ := h.head n hsending
      rw [hfifo] at hq
      cases hq
      exact hle
    have hmode : s.linkMode = .active := by
      by_contra hne
      rw [(h.passing hne).1] at hfifo
      cases hfifo
    refine { h with
      head := fun m hm => ⟨f, rest, hfifo, by cases hm; omega⟩
      own := fun hown => nomatch hown
      bytes := ?_
      passing := fun hne => absurd hmode hne
      leaving := fun _ hasked => ?_
      gone := fun hgone hplace => by rw [h.gone hgone hplace] at hsending; cases hsending }
    · have hbytes := h.bytes
      rw [State.fifoBytes_of_forwarded hsending] at hbytes
      rw [State.fifoBytes_of_forwarded rfl]
      exact (Nat.sub_le_sub_left (Nat.le_max_left _ _) _).trans hbytes
    · obtain ⟨hreceiving, hlength, _⟩ := h.leaving hmode hasked
      exact ⟨hreceiving, hlength, fun _ => ⟨_, rfl⟩⟩
  · exact h

/-- A copy enters the FIFO of a station that receives (R143). -/
theorem enterFifo (hmode : s.linkMode = .active) (hasked : s.switchAsked = false) (copy : List Byte) (sent : Nat) :
    (s.enterFifo copy sent).RingAgrees := by
  have ht := h.progress sent
  have hframe := s.progress_frame sent
  unfold State.enterFifo
  dsimp only
  split
  · next hroom =>
    have hmode : (s.progress sent).linkMode = .active := by rw [hframe]; exact hmode
    have hasked : (s.progress sent).switchAsked = false := by rw [hframe]; exact hasked
    generalize s.progress sent = t at ht hroom hmode hasked
    refine { ht with
      head := fun n hn => ?_
      bytes := ?_
      passing := fun hne => absurd hmode hne
      leaving := fun _ hleaving => absurd (hasked.symm.trans hleaving) nofun }
    · obtain ⟨f, rest, hfifo, hle⟩ := ht.head n hn
      exact ⟨f, rest ++ [copy], by simp [hfifo], hle⟩
    · by_cases hf : ∃ n, t.sending = .forwarded n
      · obtain ⟨n, hn⟩ := hf
        obtain ⟨f, rest, hfifo, hle⟩ := ht.head n hn
        rw [State.fifoBytes_of_forwarded hn, hfifo] at hroom
        rw [State.fifoBytes_of_forwarded (s := { t with fifo := t.fifo ++ [copy] }) hn, hfifo]
        simp only [List.cons_append, List.map_cons, List.map_append, List.sum_cons, List.sum_append, List.map_nil,
          List.sum_nil] at hroom ⊢
        omega
      · have hnot : ∀ n, t.sending ≠ .forwarded n := fun n hn => hf ⟨n, hn⟩
        rw [State.fifoBytes_of_not_forwarded hnot] at hroom
        rw [State.fifoBytes_of_not_forwarded (s := { t with fifo := t.fifo ++ [copy] }) hnot]
        simpa using hroom
  · exact ht

theorem probeReturns (map : BitVec 32) (hactive : s.station.isActive = true) : (s.probeReturns map).RingAgrees := by
  have hstate : (if s.station = .joining ∨ s.station = .isolated then
      ({ s with
          membership := map, probe := { s.probe with losses := 0, outstanding := none }, station := .online }
        : State).give .ringUp
      else { s with membership := map, probe := { s.probe with losses := 0, outstanding := none } }).RingAgrees := by
    split
    · exact (h.setStation (station := .online) hactive rfl).of_ringSide rfl
    · exact h.of_ringSide rfl
  unfold State.probeReturns
  dsimp only
  split
  · exact hstate
  · exact hstate.of_ringSide rfl

theorem strip (f : List Byte) (hactive : s.station.isActive = true) : (s.strip f).RingAgrees := by
  unfold State.strip
  split
  · unfold State.stripProbe
    split
    · exact h.enterFault
    · split
      · exact h.probeReturns _ hactive
      · exact h
  · split
    · exact h
    · exact h.of_ringSide (ringSide_of_besidesLines (by simp))
  · split
    · exact h
    · exact h.of_ringSide (ringSide_of_besidesLines (by simp))
  · exact h.of_ringSide (ringSide_of_besidesLines (by simp))
  · exact h

end State.RingAgrees

/-- The action on a peer's frame touches the lines and the Answer Queue alone (R135). -/
theorem State.besidesLines_act (s : State) (f : List Byte) :
    (s.act f).1.besidesLines = { s.besidesLines with answerQueue := (s.act f).1.answerQueue } := by
  have hupdate : ∀ u, (s.decideUpdate u).1.besidesLines =
      { s.besidesLines with answerQueue := (s.decideUpdate u).1.answerQueue } := fun u => by
    have hsame := s.besidesLines_decideUpdate u
    have hanswers : (s.decideUpdate u).1.besidesLines.answerQueue = s.answerQueue := by rw [hsame]; rfl
    rw [hsame, show (s.decideUpdate u).1.answerQueue = s.answerQueue from hanswers]
    rfl
  unfold State.act
  dsimp only
  split
  · split
    · exact hupdate _
    · rfl
  · split
    · exact hupdate _
    · rfl
  · split
    · unfold State.decideRequest
      split
      · dsimp only
        split <;> rfl
      · rfl
    · rfl
  · rfl
  · rfl

theorem State.ringSide_act (s : State) (f : List Byte) : (s.act f).1.ringSide = s.ringSide := by
  have hsame : (s.act f).1.besidesLines.ringSide = s.ringSide := by rw [State.besidesLines_act]; rfl
  exact hsame

end Sys2Proof.Machine

namespace Sys2Proof.Machine

namespace State

/-! ## The Forwarding Unit's own commands -/

namespace RingAgrees
variable {s : State} (h : s.RingAgrees)
include h

/-- An active link follows an active station exactly while no switch is asked for (R136 to R139). -/
theorem isActive_of_linked (hmode : s.linkMode = .active) (hasked : s.switchAsked = false) :
    s.station.isActive = true := by
  rw [h.switches, hmode, hasked]; rfl

theorem isActive_of_leaving (hmode : s.linkMode = .active) (hasked : s.switchAsked = true) :
    s.station.isActive = false := by
  rw [h.switches, hmode, hasked]; rfl

theorem isActive_of_joining (hmode : s.linkMode ≠ .active) (hasked : s.switchAsked = true) :
    s.station.isActive = true := by
  rw [h.switches, hasked]
  simpa using hmode

/-- Between frames: the frame that was being forwarded has left the FIFO (R143). -/
theorem endForwarded (hown : s.sending ≠ .own) :
    s.endForwarded.sending = .idle ∧ (s.endForwarded.fifo.map List.length).sum ≤ s.fifoBytes
      ∧ s.endForwarded = { s with fifo := s.endForwarded.fifo, sending := s.endForwarded.sending } := by
  unfold State.endForwarded
  split
  · next n hn => exact ⟨rfl, h.bytes_tail hn, rfl⟩
  · next hidle => exact ⟨hidle, (fifoBytes_of_not_forwarded (by simp [hidle])).ge, rfl⟩
  · next heq => exact absurd heq hown

/-- The next choice of an active link sends the FIFO's head, the own frame that waits, or IDLE (R144). -/
theorem chooseOutput (hmode : s.linkMode = .active) (hasked : s.switchAsked = false)
    (hbytes : (s.fifo.map List.length).sum ≤ 128) : s.chooseOutput.RingAgrees := by
  have hactive := h.isActive_of_linked hmode hasked
  have hset : ∀ x : Sending, (∀ n, x = .forwarded n → n = 0 ∧ s.fifo ≠ []) → (x = .own → s.place.isSome = true) →
      ({ s with sending := x } : State).RingAgrees := fun x hhead hown =>
    { h with
      head := fun n hn => by
        obtain ⟨rfl, hne⟩ := hhead n hn
        obtain ⟨f, rest, hfifo⟩ := List.exists_cons_of_ne_nil hne
        exact ⟨f, rest, hfifo, Nat.zero_le _⟩
      own := hown
      bytes := le_trans (Nat.sub_le _ _) hbytes
      passing := fun hne => absurd hmode hne
      leaving := fun _ hleaving => absurd (hasked.symm.trans hleaving) nofun
      gone := fun hgone => absurd (hactive.symm.trans hgone) nofun }
  unfold State.chooseOutput
  split
  · next f rest _ hfifo => exact hset _ (fun n hn => ⟨(Sending.forwarded.inj hn).symm, by simp [hfifo]⟩) nofun
  · next hplace => exact hset _ nofun fun _ => by simp [hplace]
  · exact hset _ nofun nofun

theorem outputArbiterChoice : (execOutputArbiterChoice s).Meets RingAgrees := by
  simp only [execOutputArbiterChoice, Result.meets_next]
  split
  · next hcond =>
    obtain ⟨hmode, hasked, hown⟩ := hcond
    obtain ⟨hidle, hsum, hframe⟩ := h.endForwarded hown
    have hactive := h.isActive_of_linked hmode hasked
    have ht : s.endForwarded.RingAgrees := by
      rw [hframe, hidle]
      exact { h with
        head := nofun
        own := nofun
        bytes := le_trans (Nat.sub_le _ _) (hsum.trans h.bytes)
        passing := fun hne => absurd hmode hne
        leaving := fun _ hleaving => absurd (hasked.symm.trans hleaving) nofun
        gone := fun hgone => absurd (hactive.symm.trans hgone) nofun }
    refine ht.chooseOutput ?_ ?_ (hsum.trans h.bytes)
    · rw [hframe]; exact hmode
    · rw [hframe]; exact hasked
  · exact h

/-- The END of an own insertion leaves nothing in the place (R145). -/
theorem endInsertion (hown : s.sending = .own) : ({ s with sending := .idle, place := none } : State).RingAgrees where
  head := nofun
  own := nofun
  bytes := by
    have hbytes := h.bytes
    rw [fifoBytes_of_not_forwarded (by simp [hown])] at hbytes
    exact hbytes
  switches := h.switches
  passing hne := absurd (h.passing hne).2.1 (by simp [hown])
  leaving hmode hasked := by
    obtain ⟨hreceiving, hlength, hhead⟩ := h.leaving hmode hasked
    refine ⟨hreceiving, hlength, fun hne => ?_⟩
    obtain ⟨n, hn⟩ := hhead hne
    exact absurd (hown.symm.trans hn) nofun
  gone _ hplace := nomatch hplace

theorem reportInsertion (f : List Byte) : (s.reportInsertion f).RingAgrees := by
  have hslot : ∀ i g, (s.reportSlot i g).RingAgrees := fun i g =>
    h.of_ringSide (ringSide_of_besidesLines (by simp))
  unfold State.reportInsertion
  split
  · refine h.of_ringSide ?_
    unfold State.reportProbe
    (repeat' split) <;> rfl
  · split
    · exact h
    · exact hslot _ _
  · split
    · exact h
    · exact hslot _ _
  · exact hslot _ _
  · exact h

theorem insertionComplete : (execInsertionComplete s).Meets RingAgrees := by
  simp only [execInsertionComplete, Result.meets_next]
  split
  · next f hown _ => exact (h.endInsertion hown).reportInsertion f
  · exact h

theorem switchToActive (boundary : FrameBoundary) : (execSwitchToActive boundary s).Meets RingAgrees := by
  simp only [execSwitchToActive, Result.meets_next]
  split
  · next hcond =>
    obtain ⟨hmode, hasked⟩ := hcond
    obtain ⟨hfifo, _, _⟩ := h.passing hmode
    have hactive := h.isActive_of_joining hmode hasked
    exact {
      head := nofun
      own := nofun
      bytes := by simp [fifoBytes, hfifo]
      switches := hactive
      passing := fun hne => absurd rfl hne
      leaving := nofun
      gone := fun hgone => absurd (hactive.symm.trans hgone) nofun }
  · exact h

theorem switchToPassThrough : (execSwitchToPassThrough s).Meets RingAgrees := by
  simp only [execSwitchToPassThrough, Result.meets_next]
  split
  · next hcond =>
    obtain ⟨hmode, hasked, hown⟩ := hcond
    obtain ⟨hidle, hsum, hframe⟩ := h.endForwarded hown
    obtain ⟨hreceiving, hlength, hhead⟩ := h.leaving hmode hasked
    have hgone := h.isActive_of_leaving hmode hasked
    have hempty : s.endForwarded.fifo = [] := by
      by_cases hfifo : s.fifo = []
      · unfold State.endForwarded
        split <;> simp [hfifo]
      · obtain ⟨n, hn⟩ := hhead hfifo
        have : s.endForwarded.fifo = s.fifo.tail := by simp [State.endForwarded, hn]
        rw [this]
        exact List.eq_nil_of_length_eq_zero (by simp; omega)
    rw [hframe, hidle, hempty]
    exact {
      head := nofun
      own := nofun
      bytes := by simp [fifoBytes]
      switches := hgone
      passing := fun _ => ⟨rfl, rfl, hreceiving⟩
      leaving := nofun
      gone := fun _ hplace => absurd (h.gone hgone hplace) hown }
  · exact h

theorem passThroughRepeatBegins : (execPassThroughRepeatBegins s).Meets RingAgrees := by
  simp only [execPassThroughRepeatBegins, Result.meets_next]
  split
  · next hmode =>
    have hnot : s.linkMode ≠ .active := by rw [hmode]; nofun
    have hswitches := h.switches
    rw [hmode] at hswitches
    exact { h with
      switches := hswitches
      passing := fun _ => h.passing hnot
      leaving := nofun }
  · exact h

/-! ## Reception -/

theorem setReceiving (hmode : s.linkMode = .active) (hasked : s.switchAsked = false) (receiving : Bool) :
    ({ s with receiving } : State).RingAgrees :=
  { h with
    passing := fun hne => absurd hmode hne
    leaving := fun _ hleaving => absurd (hasked.symm.trans hleaving) nofun }

theorem dropReception : ({ s with receiving := false } : State).RingAgrees :=
  { h with
    passing := fun hne => ⟨(h.passing hne).1, (h.passing hne).2.1, rfl⟩
    leaving := fun hmode hasked => ⟨rfl, (h.leaving hmode hasked).2⟩ }

end RingAgrees

theorem of_receives {s : State} (h : s.receives = true) :
    s.linkMode = .active ∧ s.switchAsked = false ∧ s.station.isActive = true := by
  simpa [receives, and_assoc] using h

namespace RingAgrees
variable {s : State} (h : s.RingAgrees)
include h

theorem frameInReceptionBegins : (execFrameInReceptionBegins s).Meets RingAgrees := by
  simp only [execFrameInReceptionBegins, Result.meets_next]
  split
  · exact h
  · split
    · next hr =>
      obtain ⟨hmode, hasked, _⟩ := of_receives hr
      exact (h.setReceiving hmode hasked true).of_ringSide rfl
    · exact h.of_ringSide rfl

theorem receptionBrokenOff (cause : BreakCause) : (execReceptionBrokenOff cause s).Meets RingAgrees := by
  simp only [execReceptionBrokenOff, Result.meets_next]
  split
  · next hr =>
    obtain ⟨hmode, hasked, _⟩ := of_receives (Bool.and_eq_true_iff.1 hr).1
    exact h.setReceiving hmode hasked _
  · exact h

theorem routeFrame (hr : s.receives = true) (f : List Byte) (sent : Nat) : (s.routeFrame f sent).RingAgrees := by
  obtain ⟨hmode, hasked, hactive⟩ := of_receives hr
  have hact := s.ringSide_act f
  unfold State.routeFrame
  split
  · exact h
  · split
    · exact h.strip f hactive
    · split
      · exact h
      · exact (h.of_ringSide hact).enterFifo ((congrArg RingSide.linkMode hact).trans hmode)
          ((congrArg RingSide.switchAsked hact).trans hasked) _ _

theorem frameReceivedWhole (bytes : List Byte) (sent : Nat) : (execFrameReceivedWhole bytes sent s).Meets RingAgrees := by
  simp only [execFrameReceivedWhole, Result.meets_next]
  split
  · next hr =>
    have ht : ({ s with receiving := false } : State).RingAgrees := h.dropReception
    split
    · exact ht.routeFrame (Bool.and_eq_true_iff.1 hr).1 bytes sent
    · exact ht
  · exact h

theorem carrierLost : (execCarrierLost s).Meets RingAgrees := by
  have ht : ({ s with carrier := false, receiving := false } : State).RingAgrees := h.dropReception.of_ringSide rfl
  simp only [execCarrierLost, Result.meets_next]
  split
  · split
    · next hst => exact ht.enterIsolated .carrier (by rw [hst]; rfl)
    · next hst => exact ht.enterIsolated .carrier (by rw [hst]; rfl)
    all_goals exact ht
  · exact h

/-! ## The control window -/

/-- START asks for the switch to active, or cancels the one to pass-through (R137, R153). -/
theorem join : s.join.RingAgrees := by
  have hring : s.join.ringSide =
      ({ s with station := .joining, switchAsked := !(s.linkMode == .active) } : State).ringSide := by
    unfold State.join joinRing
    cases s.linkMode <;> simp [ringSide]
  refine RingAgrees.of_ringSide ?_ hring
  refine { h with
    switches := ?_
    leaving := fun hmode hasked => ?_
    gone := nofun }
  · show true = ((s.linkMode == .active) != !(s.linkMode == .active))
    cases s.linkMode <;> rfl
  · have hmode : s.linkMode = .active := hmode
    simp [hmode] at hasked

theorem start (arg : BitVec 16) : (execStart arg s).Meets RingAgrees := by
  simp only [execStart, Result.meets_next]
  split
  · exact h
  · split
    · exact h.of_ringSide rfl
    · split
      · exact h.of_ringSide rfl
      · split
        · exact h.of_ringSide rfl
        · exact h.join.of_ringSide rfl

theorem leave (arg : BitVec 16) : (execLeave arg s).Meets RingAgrees := by
  have hd : (s.depart .offline).RingAgrees := h.depart rfl
  refine execLeave_meets h arg (h.of_ringSide rfl) ?_
  generalize s.depart .offline = t at hd
  exact (hd.of_ringSide (ringSide_of_besidesLines (besidesLines_endDrain t))).of_ringSide rfl

/-! ## The Framer -/

theorem buildProbe (hactive : s.station.isActive = true) : s.buildProbe.RingAgrees := by
  have hand : ∀ {t : State} (p : ProbeRecord) (f : List Byte), t.RingAgrees → t.station.isActive = true →
      ({ t with probe := p }.handOver f).RingAgrees :=
    fun p f ht hactive => (ht.setPlace (place := some f) hactive fun _ => rfl).of_ringSide rfl
  have hlost : s.loseProbe.station.isActive = true := by
    unfold State.loseProbe
    dsimp only
    split
    · obtain ⟨_, _, _, ht⟩ := enterIsolated_frame
        { s with probe := { s.probe with outstanding := none, losses := min 3 (s.probe.losses + 1) } } .probes
      rw [ht]
      rfl
    · exact hactive
  unfold State.buildProbe
  dsimp only
  split
  · exact hand _ _ h.loseProbe hlost
  · exact hand _ _ h hactive
  · exact hand _ _ h hactive

theorem choose : s.choose.RingAgrees := by
  by_cases hp : s.probeReady = true
  · rw [State.choose, if_pos hp]
    exact h.buildProbe (Bool.and_eq_true_iff.1 hp).2
  · by_cases hon : s.station = .online
    · exact h.framerMoves (s.framerMoves_choose (Bool.eq_false_iff.2 hp)) (by rw [hon]; rfl)
    · rw [State.choose, if_neg hp, if_pos hon]
      exact h

end RingAgrees
end State
end Sys2Proof.Machine

namespace Sys2Proof.Machine

/-! ## The invariant with the Framer's -/

/-- The ring side agrees, and outside ONLINE no choice stands and no slot is in use. -/
structure State.LinkSound (s : State) : Prop where
  ring : s.RingAgrees
  quiet : s.QuietOutsideOnline

namespace State

theorem decideUpdate_slots (s : State) (u : Update) : (s.decideUpdate u).1.slots = s.slots := by
  have hd := s.decideUpdate_decided u
  generalize (s.decideUpdate u).1 = t at hd ⊢
  cases hd with
  | raised =>
    unfold raiseAndQueue
    dsimp only
    rw [drainTest_slots]
    split <;> rfl
  | stale =>
    unfold raiseStale
    dsimp only
    rw [drainTest_slots]
    split <;> simp [raiseRec]
  | heal => rfl
  | unchanged => rfl

theorem act_slots (s : State) (f : List Byte) : (s.act f).1.slots = s.slots := by
  unfold act
  dsimp only
  split
  · split
    · exact s.decideUpdate_slots _
    · rfl
  · split
    · exact s.decideUpdate_slots _
    · rfl
  · split
    · unfold decideRequest
      split
      · dsimp only
        split <;> rfl
      · rfl
    · rfl
  all_goals rfl

theorem act_build (s : State) (f : List Byte) : (s.act f).1.build = s.build := by
  have hbuild : (s.act f).1.besidesLines.build = s.build := by rw [besidesLines_act]; rfl
  exact hbuild

theorem QuietOutsideOnline.routeFrame {s : State} (h : s.QuietOutsideOnline) (f : List Byte) (sent : Nat) :
    (s.routeFrame f sent).QuietOutsideOnline := by
  unfold State.routeFrame
  split
  · exact h
  · split
    · exact h.strip f
    · split
      · exact h
      · have hact : (s.act f).1.QuietOutsideOnline :=
          h.of_same (congrArg RingSide.station (s.ringSide_act f)) (s.act_build f) (s.act_slots f)
        dsimp only
        rw [enterFifo_frame]
        exact hact.of_same rfl rfl rfl

namespace QuietOutsideOnline

variable {s : State} (h : s.QuietOutsideOnline)
include h

theorem of_leavesRing {t : State} (hl : LeavesRing s t) : t.QuietOutsideOnline := hl.quiet h

/-- A build stands in ONLINE alone, and leaves the station there. -/
theorem of_build {b : Build} (hb : s.build = some b) {t : State} (hm : FramerMoves s t) : t.QuietOutsideOnline :=
  framerMoves hm (h.online_of_build hb)

theorem abandonBuild : s.abandonBuild.QuietOutsideOnline := fun hne => ⟨rfl, (h hne).2⟩

theorem join (hoff : s.station = .offline) : s.join.QuietOutsideOnline := by
  obtain ⟨hidle, hfree⟩ := h (by rw [hoff]; nofun)
  have hsame := s.holdings_join
  refine .of_idle ((congrArg Holdings.build hsame).trans hidle) fun i => ?_
  rw [slots_eq_of_slot (congrArg Holdings.slots hsame)]
  exact hfree i

theorem start (arg : BitVec 16) : (execStart arg s).Meets QuietOutsideOnline := by
  simp only [execStart, Result.meets_next]
  split
  · exact h
  · split
    · exact h.answer _ _ _
    · next hoff =>
      split
      · exact h.answer _ _ _
      · split
        · exact h.answer _ _ _
        · exact (h.join (not_not.1 hoff)).answer _ _ _

theorem leave (arg : BitVec 16) : (execLeave arg s).Meets QuietOutsideOnline := by
  refine execLeave_meets h arg (h.answer _ _ _) ?_
  have hd : (s.depart .offline).QuietOutsideOnline := .depart .offline
  generalize s.depart .offline = t at hd
  exact hd.endDrain.answer _ _ _

theorem outputArbiterChoice : (execOutputArbiterChoice s).Meets QuietOutsideOnline := by
  simp only [execOutputArbiterChoice, Result.meets_next]
  have hend : s.endForwarded.QuietOutsideOnline := by
    unfold State.endForwarded
    split <;> exact h.of_same rfl rfl rfl
  split
  · unfold State.chooseOutput
    split <;> exact hend.of_same rfl rfl rfl
  · exact h

/-- Every command keeps the Framer's choice and the slots to ONLINE. -/
theorem exec_meets (i : Instr) : Result.Meets (exec i s) QuietOutsideOnline := by
  by_cases hi : leavesRingSide i = true
  · exact fun t ht => h.of_leavesRing (exec_leavesRingSide hi s t ht)
  cases i
  case reset => exact Result.meets_next.2 (.of_idle rfl use_reset)
  case start arg => exact h.start arg
  case leave arg => exact h.leave arg
  case frameReceivedWhole bytes sent =>
    have ht : ({ s with receiving := false } : State).QuietOutsideOnline := h.of_same rfl rfl rfl
    exact execFrameReceivedWhole_meets h bytes sent ht (ht.routeFrame bytes sent)
  case receptionBrokenOff cause =>
    simp only [exec, execReceptionBrokenOff, Result.meets_next]
    split <;> exact h.of_same rfl rfl rfl
  case carrierLost => exact execCarrierLost_meets h (h.of_same rfl rfl rfl) (.enterIsolated .carrier)
  case outputArbiterChoice => exact h.outputArbiterChoice
  case insertionComplete =>
    have ht : ({ s with sending := .idle, place := none } : State).QuietOutsideOnline := h.of_same rfl rfl rfl
    exact execInsertionComplete_meets h fun f _ => ht.reportInsertion f
  case switchToActive boundary =>
    simp only [exec, execSwitchToActive, Result.meets_next]
    split <;> exact h.of_same rfl rfl rfl
  case switchToPassThrough =>
    simp only [exec, execSwitchToPassThrough, Result.meets_next]
    unfold State.endForwarded
    (repeat' split) <;> exact h.of_same rfl rfl rfl
  case framerChoice => exact execFramerChoice_meets h h.choose
  case postBuild u =>
    exact execPostBuild_meets h u fun line hb => h.of_build hb.1 (framerMoves_buildPost _ line).of_strike
  case mendResendBuild u =>
    exact execMendResendBuild_meets h u h.abandonBuild
      fun i v hb _ => h.of_build hb.1 (framerMoves_buildMendResend _ i v).of_strike
  case replacementBuild u =>
    exact execReplacementBuild_meets h u h.abandonBuild
      fun i v hb _ => h.of_build hb.1 (framerMoves_buildReplacement _ i v).of_strike
  case answerBuild u =>
    refine execAnswerBuild_meets h u h.abandonBuild fun line rest hb _ => ?_
    have ht : ({ s.strike line u with answerQueue := rest } : State).QuietOutsideOnline :=
      h.of_same (s.strike_station line u) (s.strike_build line u) (s.strike_slots line u)
    exact ht.of_build ((s.strike_build line u).trans hb.1) (framerMoves_buildAnswer _ line rest)
  case sweepRefreshFetch u =>
    exact execSweepRefreshFetch_meets h u fun hb => h.of_build hb.1 (framerMoves_fetchSweep _ s.sweep.pointer).of_strike
  case probeLost =>
    exact execProbeLost_meets h fun d => (h.of_same (t := s.reach d) rfl rfl rfl).loseProbe
  case frameInReceptionBegins =>
    simp only [exec, execFrameInReceptionBegins, Result.meets_next]
    (repeat' split) <;> exact h.of_same rfl rfl rfl
  case passThroughRepeatBegins =>
    simp only [exec, execPassThroughRepeatBegins, Result.meets_next]
    split <;> exact h.of_same rfl rfl rfl
  all_goals exact absurd rfl hi

end QuietOutsideOnline

namespace LinkSound

variable {s : State} (h : s.LinkSound)
include h

/-- A build stands in ONLINE alone. -/
theorem framerMoves {b : Build} (hb : s.build = some b) {t : State} (hm : FramerMoves s t) : t.RingAgrees :=
  h.ring.framerMoves hm (by rw [h.quiet.online_of_build hb]; rfl)

/-- Every command keeps the ring side in agreement. -/
theorem exec_meets_ring (i : Instr) : Result.Meets (exec i s) RingAgrees := by
  by_cases hi : leavesRingSide i = true
  · exact fun t ht => h.ring.of_ringSide (exec_leavesRingSide hi s t ht).ring
  cases i
  case reset => exact Result.meets_next.2 (RingAgrees.reset.of_ringSide rfl)
  case start arg => exact h.ring.start arg
  case leave arg => exact h.ring.leave arg
  case frameReceivedWhole bytes sent => exact h.ring.frameReceivedWhole bytes sent
  case receptionBrokenOff cause => exact h.ring.receptionBrokenOff cause
  case carrierLost => exact h.ring.carrierLost
  case outputArbiterChoice => exact h.ring.outputArbiterChoice
  case insertionComplete => exact h.ring.insertionComplete
  case switchToActive boundary => exact h.ring.switchToActive boundary
  case switchToPassThrough => exact h.ring.switchToPassThrough
  case framerChoice => exact execFramerChoice_meets h.ring h.ring.choose
  case postBuild u =>
    exact execPostBuild_meets h.ring u fun line hb => h.framerMoves hb.1 (framerMoves_buildPost _ line).of_strike
  case mendResendBuild u =>
    exact execMendResendBuild_meets h.ring u (h.ring.of_ringSide rfl)
      fun i v hb _ => h.framerMoves hb.1 (framerMoves_buildMendResend _ i v).of_strike
  case replacementBuild u =>
    exact execReplacementBuild_meets h.ring u (h.ring.of_ringSide rfl)
      fun i v hb _ => h.framerMoves hb.1 (framerMoves_buildReplacement _ i v).of_strike
  case answerBuild u =>
    refine execAnswerBuild_meets h.ring u (h.ring.of_ringSide rfl) fun line rest hb _ => ?_
    have ht : ({ s.strike line u with answerQueue := rest } : State).LinkSound :=
      ⟨(h.ring.of_ringSide (ringSide_of_besidesLines (s.besidesLines_strike line u))).of_ringSide rfl,
        h.quiet.of_same (s.strike_station line u) (s.strike_build line u) (s.strike_slots line u)⟩
    exact ht.framerMoves ((s.strike_build line u).trans hb.1) (framerMoves_buildAnswer _ line rest)
  case sweepRefreshFetch u =>
    exact execSweepRefreshFetch_meets h.ring u fun hb =>
      h.framerMoves hb.1 (framerMoves_fetchSweep _ s.sweep.pointer).of_strike
  case probeLost =>
    exact execProbeLost_meets h.ring fun d => (h.ring.of_ringSide (t := s.reach d) rfl).loseProbe
  case frameInReceptionBegins => exact h.ring.frameInReceptionBegins
  case passThroughRepeatBegins => exact h.ring.passThroughRepeatBegins
  all_goals exact absurd rfl hi

/-- Every command keeps the invariant. -/
theorem exec_meets (i : Instr) : Result.Meets (exec i s) LinkSound := fun t ht =>
  ⟨h.exec_meets_ring i t ht, h.quiet.exec_meets i t ht⟩

end LinkSound
end State

/-- Settles O59: the tick moves the time and the queue of commands alone, and every command keeps the invariant. -/
theorem stepsKeepTheLinkAgreed : Obligations.StepsKeepTheLinkAgreed := by
  unfold Obligations.StepsKeepTheLinkAgreed
  intro s t h hstep
  obtain ⟨hsending, hlink, hquiet⟩ := h
  have hs : s.LinkSound := ⟨s.ringAgrees_iff.2 ⟨hsending, hlink⟩, hquiet⟩
  have ht : t.LinkSound :=
    step_meets (fun _ hu => ⟨hu.ring.of_ringSide rfl, hu.quiet.of_same rfl rfl rfl⟩)
      (fun _ _ hu => ⟨hu.ring.of_ringSide rfl, hu.quiet.of_same rfl rfl rfl⟩) (fun i _ hu => hu.exec_meets i) hs t hstep
  obtain ⟨hsending', hlink'⟩ := t.ringAgrees_iff.1 ht.ring
  exact ⟨hsending', hlink', ht.quiet⟩

end Sys2Proof.Machine

/-! # The capacities of queues, lists and tables

Every list, queue, count and table holds what the spec gives it and no more (R34, R60, R103, R111, R159, R190, R191). -/

namespace Sys2Proof.Machine

/-! ## The Notice Queue, the entries of the Apply Queue and the UPDATE slots -/

/-- A Notice Queue within its 64 places, OVERFLOW last when it is full (R190, R191). -/
def NoticesFit (q : List Notice) : Prop := q.length ≤ 64 ∧ (q.length = 64 → q.getLast? = some .overflow)

theorem NoticesFit.place {q : List Notice} (h : NoticesFit q) (n : Notice) : NoticesFit (placeNotice q n) :=
  ⟨placeNotice_length_le n h.1, placeNotice_overflow n h.2⟩

theorem NoticesFit.after {q : List Notice} (h : NoticesFit q) (ns : List Notice) : NoticesFit (noticesAfter q ns) := by
  induction ns generalizing q with
  | nil => exact h
  | cons n ns ih => exact ih (h.place n)

theorem NoticesFit.tail {q : List Notice} (h : NoticesFit q) : NoticesFit q.tail := by
  obtain ⟨hlength, _⟩ := h
  constructor
  · simp; omega
  · intro hfull
    simp at hfull
    omega

/-- An apply entry carries one byte for each position of its mask (R34). -/
def ApplyEntry.Fits (e : ApplyEntry) : Prop :=
  e.data.length = popcount e.mask ∧ e.mask ≠ 0 ∧ (e.kind = .full → e.mask = Mask.all)

theorem List.countP_le_add_count {α : Type} [DecidableEq α] {p q : α → Bool} {i : α} (l : List α)
    (h : ∀ j, j ≠ i → q j = true → p j = true) : l.countP q ≤ l.countP p + l.count i := by
  induction l with
  | nil => simp
  | cons j l ih =>
    simp only [List.countP_cons, List.count_cons, beq_iff_eq]
    by_cases hj : j = i
    · subst hj
      split <;> split <;> simp <;> omega
    · have := h j hj
      split <;> split <;> simp_all <;> omega

/-- Where no slot comes into use for an update, the count of the UPDATE slots does not rise (R61). -/
theorem State.updateSlots_le_of_isFor {s t : State}
    (h : ∀ i, (t.slot i).isFor .update = true → (s.slot i).isFor .update = true) : t.updateSlots ≤ s.updateSlots :=
  List.countP_mono_left fun i _ => h i

/-- One slot's write raises the count of the UPDATE slots by one at most (R61). -/
theorem State.updateSlots_setSlot_le (s : State) (i : SlotNo) (x : Slot) :
    (s.setSlot i x).updateSlots ≤ s.updateSlots + 1 := by
  have hcount : allSlots.count i = 1 := by revert i; decide
  have hle := List.countP_le_add_count (i := i) (p := fun j => (s.slot j).isFor .update)
    (q := fun j => ((s.setSlot i x).slot j).isFor .update) allSlots fun j hj => by
      rw [slot_setSlot_other s x hj]; exact id
  rw [hcount] at hle
  exact hle

theorem Slot.isFor_of_use {x : Slot} {u : SlotUse} (hu : x.use = some u) (p : Purpose) :
    x.isFor p = true ↔ u.purpose = p := by
  simp [Slot.isFor, hu]

/-! ## The invariant -/

/-- What the capacities look at. -/
structure Capacities where
  applyQueue : List ApplyEntry
  repairList : List RepairEntry
  answerQueue : List Nat
  notices : List Notice
  losses : Nat
  slots : Vector Slot 16
  retryLimit : BitVec 8
  locked : Bool
  station : StationState
  build : Option Build

def State.capacities (s : State) : Capacities where
  applyQueue := s.applyQueue
  repairList := s.repairList
  answerQueue := s.answerQueue
  notices := s.notices
  losses := s.probe.losses
  slots := s.slots
  retryLimit := s.config.retryLimit
  locked := s.locked
  station := s.station
  build := s.build

/-- Every list, queue, count and table is within what the spec gives it; before the configuration is locked the station is
OFFLINE with no slot in use. -/
structure State.Bounded (s : State) : Prop where
  applyLength : s.applyQueue.length ≤ 8
  entries : ∀ e ∈ s.applyQueue, e.Fits
  repairLength : s.repairList.length ≤ 32
  answerLength : s.answerQueue.length ≤ 4
  answerNodup : s.answerQueue.Nodup
  notices : NoticesFit s.notices
  losses : s.probe.losses ≤ 3
  updates : s.updateSlots ≤ 14
  attempts : ∀ i u, (s.slot i).use = some u → u.attempts ≤ 7
  retryLimit : s.locked = true → s.config.retryLimit.toNat ≤ 7
  unlocked : s.locked = false → s.station = .offline ∧ s.build = none ∧ ∀ i, (s.slot i).use = none

theorem State.bounded_iff (s : State) : s.Bounded ↔ s.WithinCapacity ∧ s.AttemptsBounded ∧ s.EntriesFit := by
  constructor
  · rintro ⟨happly, hentries, hrepair, hanswer, hnodup, hnotices, hlosses, hupdates, hattempts, hretry, hunlocked⟩
    exact ⟨⟨happly, hrepair, hanswer, hnodup, hnotices.1, hnotices.2, hlosses, hupdates⟩,
      ⟨hattempts, hretry, hunlocked⟩, hentries⟩
  · rintro ⟨⟨happly, hrepair, hanswer, hnodup, hlength, hlast, hlosses, hupdates⟩,
      ⟨hattempts, hretry, hunlocked⟩, hentries⟩
    exact ⟨happly, hentries, hrepair, hanswer, hnodup, ⟨hlength, hlast⟩, hlosses, hupdates, hattempts, hretry, hunlocked⟩

namespace State.Bounded

/-- The invariant looks at the capacities alone. -/
theorem of_same {s t : State} (h : s.Bounded) (e : t.capacities = s.capacities) : t.Bounded := by
  have hslots : ∀ i, t.slot i = s.slot i := slots_eq_of_slot (congrArg Capacities.slots e)
  have hupdates : t.updateSlots = s.updateSlots := by simp only [State.updateSlots, hslots]
  have hqueue : t.applyQueue = s.applyQueue := congrArg Capacities.applyQueue e
  have hrepairs : t.repairList = s.repairList := congrArg Capacities.repairList e
  have hanswers : t.answerQueue = s.answerQueue := congrArg Capacities.answerQueue e
  have hnotices : t.notices = s.notices := congrArg Capacities.notices e
  have hlosses : t.probe.losses = s.probe.losses := congrArg Capacities.losses e
  have hretry : t.config.retryLimit = s.config.retryLimit := congrArg Capacities.retryLimit e
  have hlocked : t.locked = s.locked := congrArg Capacities.locked e
  have hstation : t.station = s.station := congrArg Capacities.station e
  have hbuild : t.build = s.build := congrArg Capacities.build e
  exact {
    applyLength := hqueue ▸ h.applyLength
    entries := hqueue ▸ h.entries
    repairLength := hrepairs ▸ h.repairLength
    answerLength := hanswers ▸ h.answerLength
    answerNodup := hanswers ▸ h.answerNodup
    notices := hnotices ▸ h.notices
    losses := hlosses ▸ h.losses
    updates := hupdates ▸ h.updates
    attempts := fun i u hu => h.attempts i u (hslots i ▸ hu)
    retryLimit := fun hl => hretry ▸ h.retryLimit (hlocked ▸ hl)
    unlocked := fun hl => by
      obtain ⟨hoff, hidle, hfree⟩ := h.unlocked (hlocked ▸ hl)
      exact ⟨hstation.trans hoff, hbuild.trans hidle, fun i => by rw [hslots]; exact hfree i⟩ }

theorem reset : State.reset.Bounded := (State.bounded_iff _).2 ⟨withinCapacity_reset, attemptsBounded_reset,
  fun _ he => absurd he List.not_mem_nil⟩

variable {s : State} (h : s.Bounded)
include h

/-! ### The lock -/

theorem locked_of_slot {i : SlotNo} {u : SlotUse} (hu : (s.slot i).use = some u) : s.locked = true := by
  by_contra hne
  rw [(h.unlocked (Bool.eq_false_iff.2 hne)).2.2 i] at hu
  cases hu

theorem locked_of_build {b : Build} (hb : s.build = some b) : s.locked = true := by
  by_contra hne
  rw [(h.unlocked (Bool.eq_false_iff.2 hne)).2.1] at hb
  cases hb

theorem locked_of_station (hst : s.station ≠ .offline) : s.locked = true := by
  by_contra hne
  exact hst (h.unlocked (Bool.eq_false_iff.2 hne)).1

/-! ### Lists, queues and notices -/

theorem setNotices {q : List Notice} (hq : NoticesFit q) : ({ s with notices := q } : State).Bounded :=
  { h with notices := hq }

theorem setRepairList {q : List RepairEntry} (hq : q.length ≤ 32) : ({ s with repairList := q } : State).Bounded :=
  { h with repairLength := hq }

theorem give (n : Notice) : (s.give n).Bounded := h.setNotices (h.notices.place n)

theorem giveBoth (a b : Notice) : (s.giveBoth a b).Bounded := by
  rw [giveBoth_frame]
  refine (h.setNotices ?_).of_same rfl
  obtain hab | hba := s.giveBoth_notices a b
  · rw [hab]; exact (h.notices.place a).place b
  · rw [hba]; exact (h.notices.place b).place a

theorem drainTest : s.drainTest.Bounded := by
  rw [drainTest_frame]
  refine (h.setNotices ?_).of_same rfl
  rw [drainTest_notices]
  split
  · exact h.notices.place _
  · exact h.notices

theorem endDrain : s.endDrain.Bounded := by
  unfold State.endDrain
  split
  · exact (h.give _).of_same rfl
  · exact h

theorem listLine (line : Nat) : (s.listLine line).Bounded := by
  rw [listLine_frame]
  exact (h.setRepairList (s.listLine_length line h.repairLength)).of_same rfl

theorem unlistLine (line : Nat) : (s.unlistLine line).Bounded :=
  (h.setRepairList ((List.length_filter_le _ _).trans h.repairLength)).of_same rfl

theorem checkFailure (line : Nat) : (s.checkFailure line).Bounded := by
  have hnotices : NoticesFit (s.checkFailure line).notices := by
    rw [checkFailure_gives]; exact h.notices.after _
  have hlist : (s.checkFailure line).repairList.length ≤ 32 := by
    have hlength := h.repairLength
    rw [checkFailure_repairList]
    split
    · exact hlength
    · simp; omega
  rw [checkFailure_frame]
  exact ((h.setNotices hnotices).setRepairList hlist).of_same rfl

theorem strike (line : Nat) (u : Option Upset) : (s.strike line u).Bounded := by
  rw [strike_frame]
  exact h.of_same rfl

theorem endFlight (i : SlotNo) (line : Nat) (mustFull : Bool) : (s.endFlight i line mustFull).Bounded := by
  rw [endFlight_frame]
  exact h.of_same rfl

/-! ### Slots -/

/-- A slot's record may change while its purpose stays or it is freed. -/
theorem setSlot {i : SlotNo} {x : Slot} (hlocked : x.use ≠ none → s.locked = true)
    (hfor : x.isFor .update = true → (s.slot i).isFor .update = true)
    (hattempts : ∀ u, x.use = some u → u.attempts ≤ 7) : (s.setSlot i x).Bounded :=
  { h with
    updates := le_trans (updateSlots_le_of_isFor fun j hj => by
      by_cases hij : j = i
      · subst hij; rw [slot_setSlot_same] at hj; exact hfor hj
      · rw [slot_setSlot_other s x hij] at hj; exact hj) h.updates
    attempts := fun j u hu => by
      by_cases hij : j = i
      · subst hij; rw [slot_setSlot_same] at hu; exact hattempts u hu
      · rw [slot_setSlot_other s x hij] at hu; exact h.attempts j u hu
    unlocked := fun hl => by
      obtain ⟨hoff, hidle, hfree⟩ := h.unlocked hl
      refine ⟨hoff, hidle, fun j => ?_⟩
      by_cases hij : j = i
      · subst hij
        rw [slot_setSlot_same]
        by_contra hne
        exact absurd (hl.symm.trans (hlocked hne)) nofun
      · rw [slot_setSlot_other s x hij]; exact hfree j }

theorem freeSlot (i : SlotNo) : (s.freeSlot i).Bounded :=
  h.setSlot (fun hne => absurd rfl hne) (fun hfor => nomatch hfor) fun _ hu => nomatch hu

/-- A slot in use is written again for the same purpose. -/
theorem rewriteSlot {i : SlotNo} {u v : SlotUse} (hu : (s.slot i).use = some u) (hpurpose : v.purpose = u.purpose)
    (hattempts : v.attempts ≤ 7) (generation : BitVec 4) : (s.setSlot i ⟨generation, some v⟩).Bounded := by
  refine h.setSlot (fun _ => h.locked_of_slot hu) (fun hfor => ?_) fun w hw => ?_
  · rw [Slot.isFor_of_use hu, ← hpurpose]
    exact (Slot.isFor_of_use rfl _).1 hfor
  · obtain rfl := Option.some.inj hw
    exact hattempts

theorem makeDue {i : SlotNo} {u : SlotUse} (hu : (s.slot i).use = some u) (kind : TxKind) {n : Nat} (hn : n ≤ 7) :
    (s.makeDue i u kind n).Bounded :=
  (h.rewriteSlot (v := { u with attempts := n, due := some ⟨kind, s.dueCount⟩, deadline := none }) hu rfl hn
    (s.slot i).generation).of_same rfl

/-- An attempt count is raised only below the retry limit (R60, R81, R151). -/
theorem makeDue_next {i : SlotNo} {u : SlotUse} (hu : (s.slot i).use = some u) (kind : TxKind)
    (hlimit : u.attempts < s.config.retryLimit.toNat) : (s.makeDue i u kind (u.attempts + 1)).Bounded :=
  h.makeDue hu kind (hlimit.trans_le (h.retryLimit (h.locked_of_slot hu)))

theorem transmit {i : SlotNo} {u v : SlotUse} (hu : (s.slot i).use = some u) (hpurpose : v.purpose = u.purpose)
    (hattempts : v.attempts ≤ 7) : (s.transmit i v).Bounded :=
  h.rewriteSlot (v := { v with due := none, deadline := none }) hu hpurpose hattempts _

/-- A free slot is taken for a line's repair (R61). -/
theorem transmitRepair {i : SlotNo} {v : SlotUse} (hlocked : s.locked = true) (hpurpose : v.purpose = .repair)
    (hattempts : v.attempts ≤ 7) : (s.transmit i v).Bounded := by
  refine h.setSlot (fun _ => hlocked) (fun hfor => ?_) fun w hw => ?_
  · have := (Slot.isFor_of_use rfl _).1 hfor
    rw [show v.purpose = .update from this] at hpurpose
    cases hpurpose
  · obtain rfl := Option.some.inj hw
    exact hattempts

/-- A free slot is taken for an update while fewer than 14 are (R61). -/
theorem transmitUpdate {i : SlotNo} {v : SlotUse} (hlocked : s.locked = true) (hroom : s.updateSlots < 14)
    (hattempts : v.attempts ≤ 7) : (s.transmit i v).Bounded :=
  { h with
    updates := (s.updateSlots_setSlot_le i _).trans hroom
    attempts := fun j u hu => by
      by_cases hij : j = i
      · subst hij
        rw [State.transmit, slot_setSlot_same] at hu
        obtain rfl := Option.some.inj hu
        exact hattempts
      · rw [State.transmit, slot_setSlot_other s _ hij] at hu; exact h.attempts j u hu
    unlocked := fun hl => absurd (hlocked.symm.trans hl) nofun }

theorem freeRepairSlot (line : Nat) : (s.freeRepairSlot line).Bounded :=
  { h with
    updates := le_trans (updateSlots_le_of_isFor fun i hi => by
      rw [slot_freeRepairSlot] at hi
      split at hi
      · cases hi
      · exact hi) h.updates
    attempts := fun i u hu => by
      rw [slot_freeRepairSlot] at hu
      split at hu
      · cases hu
      · exact h.attempts i u hu
    unlocked := fun hl => by
      obtain ⟨hoff, hidle, hfree⟩ := h.unlocked hl
      exact ⟨hoff, hidle, fun i => use_freeRepairSlot line (hfree i)⟩ }

/-- A choice may stand while the configuration is locked. -/
theorem setBuild {b : Option Build} (hlocked : b ≠ none → s.locked = true) : ({ s with build := b } : State).Bounded :=
  { h with
    unlocked := fun hl => by
      obtain ⟨hoff, _, hfree⟩ := h.unlocked hl
      refine ⟨hoff, ?_, hfree⟩
      by_contra hne
      exact absurd (hl.symm.trans (hlocked hne)) nofun }

theorem abandonBuild : s.abandonBuild.Bounded := h.setBuild fun hne => absurd rfl hne

theorem handOver (f : List Byte) : (s.handOver f).Bounded := h.abandonBuild.of_same rfl

end State.Bounded
end Sys2Proof.Machine

namespace Sys2Proof.Machine

/-! ## The frame of a peer that is acted on, and the entries it queues -/

/-- An update carries one byte for each position of its mask (R34). -/
def Update.Fits (u : Update) : Prop :=
  u.data.length = popcount u.mask ∧ u.mask ≠ 0 ∧ (u.kind = .full → u.mask = Mask.all)

/-- The FULL of a frame of the right length carries the 32 bytes of a line (R134, R199). -/
theorem Frame.update_full_fits {f : List Byte} (hkind : Frame.kind f = .full) (hform : Frame.malformed f = false) :
    (Frame.update f .full).Fits := by
  have hlength : f.length = 47 := by simpa [Frame.malformed, hkind] using hform
  refine ⟨?_, show Mask.all ≠ 0 by decide, fun _ => rfl⟩
  change (Frame.fullData f).length = popcount Mask.all
  rw [show popcount Mask.all = 32 by decide, Frame.fullData]
  simp [hlength]

/-- The DELTA of a frame of the right length carries the bytes of its mask (R134, R199). -/
theorem Frame.update_delta_fits {f : List Byte} (hkind : Frame.kind f = .delta) (hform : Frame.malformed f = false) :
    (Frame.update f .delta).Fits := by
  simp only [Frame.malformed, hkind, Bool.or_eq_false_iff, beq_eq_false_iff_ne, bne_eq_false_iff_eq] at hform
  obtain ⟨⟨_, hmask⟩, hlength⟩ := hform
  refine ⟨?_, fun h => hmask ((popcount_eq_zero_iff _).2 h), fun h => nomatch h⟩
  change (Frame.deltaData f).length = popcount (Frame.mask f)
  rw [Frame.deltaData]
  simp [hlength]
  omega

/-- A frame is routed at a station that receives, and so an active one (R131). -/
theorem execFrameReceivedWhole_meets_receiving {P : State → Prop} {s : State} (hs : P s) (bytes : List Byte) (sent : Nat)
    (hdropped : P { s with receiving := false })
    (hrouted : s.receives = true → P (({ s with receiving := false } : State).routeFrame bytes sent)) :
    (execFrameReceivedWhole bytes sent s).Meets P := by
  by_cases hr : s.receives = true
  · exact execFrameReceivedWhole_meets hs bytes sent hdropped (hrouted hr)
  · simp only [execFrameReceivedWhole, Result.meets_next]
    simpa [hr] using hs

/-- The loss of carrier ends JOINING and ONLINE, and leaves any other station state (R155, R157). -/
theorem execCarrierLost_meets_joined {P : State → Prop} {s : State} (hs : P s)
    (hlost : P { s with carrier := false, receiving := false })
    (hisolated : s.station = .joining ∨ s.station = .online →
      P (({ s with carrier := false, receiving := false } : State).enterIsolated .carrier)) :
    (execCarrierLost s).Meets P := by
  simp only [execCarrierLost, Result.meets_next]
  split
  · split
    · next hst => exact hisolated (.inl hst)
    · next hst => exact hisolated (.inr hst)
    all_goals exact hlost
  · exact hs

theorem State.active_of_receives {s : State} (h : s.receives = true) : s.station.isActive = true := by
  simp only [State.receives, Bool.and_eq_true] at h
  exact h.2

theorem StationState.ne_offline_of_active {st : StationState} (h : st.isActive = true) : st ≠ .offline := by
  rintro rfl
  cases h

namespace State.Bounded

theorem freed {s : State} (h : s.Bounded) {slots : Vector Slot 16}
    (hfree : ∀ i, (({ s with slots := slots } : State).slot i).use = none) : ({ s with slots := slots } : State).Bounded :=
  { h with
    updates := by
      rw [(updateSlots_eq_zero _).2 fun i => by simp only [Slot.isFor, hfree i]]
      exact Nat.zero_le 14
    attempts := fun i u hu => nomatch (hfree i).symm.trans hu
    unlocked := fun hl => by
      obtain ⟨hoff, hidle, _⟩ := h.unlocked hl
      exact ⟨hoff, hidle, hfree⟩ }

theorem setStation {s : State} (h : s.Bounded) {st : StationState} (hlocked : st = .offline ∨ s.locked = true) :
    ({ s with station := st } : State).Bounded :=
  { h with
    unlocked := fun hl => by
      obtain ⟨_, hrest⟩ := h.unlocked hl
      refine ⟨hlocked.resolve_right fun hlk => ?_, hrest⟩
      exact absurd (hl.symm.trans hlk) nofun }

theorem setLosses {s : State} (h : s.Bounded) {p : ProbeRecord} (hp : p.losses ≤ 3) :
    ({ s with probe := p } : State).Bounded := { h with losses := hp }

theorem setAnswers {s : State} (h : s.Bounded) {q : List Nat} (hlength : q.length ≤ 4) (hnodup : q.Nodup) :
    ({ s with answerQueue := q } : State).Bounded :=
  { h with answerLength := hlength, answerNodup := hnodup }

theorem setApplyQueue {s : State} (h : s.Bounded) {q : List ApplyEntry} (hlength : q.length ≤ 8) (hq : ∀ e ∈ q, e.Fits) :
    ({ s with applyQueue := q } : State).Bounded :=
  { h with applyLength := hlength, entries := hq }

variable {s : State} (h : s.Bounded)
include h

/-! ### The Apply Unit -/

theorem popApply {e : ApplyEntry} {rest : List ApplyEntry} (hq : s.applyQueue = e :: rest) :
    (s.popApply e rest).Bounded := by
  have hlength := h.applyLength
  rw [hq, List.length_cons] at hlength
  exact (h.setApplyQueue (q := rest) (by omega) fun x hx => h.entries x (by simp [hq, hx])).of_same rfl

theorem endRepair (line : Nat) : (s.endRepair line).Bounded := (h.unlistLine line).freeRepairSlot line

theorem giveApplied (e : ApplyEntry) : (s.giveApplied e).Bounded := by
  unfold State.giveApplied
  dsimp only
  split
  · exact h.give _
  · exact h

theorem applyFullEntry {e : ApplyEntry} {rest : List ApplyEntry} (hq : s.applyQueue = e :: rest) :
    (s.applyFullEntry e rest).Bounded := by
  have hw : (s.writeLine e.line (Mask.merge Mask.all 0 (s.lineBytes e.line) e.data)).Bounded := h.of_same rfl
  have hr : ∀ r, ((s.writeLine e.line (Mask.merge Mask.all 0 (s.lineBytes e.line) e.data)).setRec e.line r).Bounded :=
    fun _ => h.of_same rfl
  unfold State.applyFullEntry
  dsimp only
  split
  · split
    · exact ((hr _).popApply hq).giveApplied e
    · exact (((hr _).endRepair _).popApply hq).giveApplied e
  · exact (hw.popApply hq).giveApplied e

theorem applyDeltaEntry {e : ApplyEntry} {rest : List ApplyEntry} (hq : s.applyQueue = e :: rest) (u : Option Upset) :
    (s.applyDeltaEntry e rest u).Bounded := by
  have hs := h.strike e.line u
  have hqs : (s.strike e.line u).applyQueue = e :: rest := by rw [strike_applyQueue, hq]
  unfold State.applyDeltaEntry
  dsimp only
  split
  · exact h.popApply hq
  · split
    · exact ((hs.checkFailure _).popApply (by rw [checkFailure_applyQueue, hqs])).drainTest
    · have hw : ((s.strike e.line u).writeLine e.line
          (Mask.merge e.mask 0 ((s.strike e.line u).lineBytes e.line) e.data)).Bounded := hs.of_same rfl
      exact (hw.popApply hqs).giveApplied e

/-! ### Changes of station state -/

theorem enterIsolated (hlocked : s.locked = true) (detail : RingDownDetail) : (s.enterIsolated detail).Bounded := by
  have hfree := s.abandonSlots_use
  rw [enterIsolated_eq]
  unfold State.isolated
  generalize s.abandonSlots = t at hfree
  have hb : ({ s with slots := t.slots, build := none } : State).Bounded := (h.freed hfree).abandonBuild
  apply State.Bounded.drainTest
  exact ((hb.setStation (st := .isolated) (.inr hlocked)).setNotices (h.notices.after _)).of_same rfl

theorem depart {target : StationState} (htarget : target = .offline ∨ s.locked = true) : (s.depart target).Bounded := by
  have hfree := s.abandonSlots_use
  rw [depart_eq]
  unfold State.departed
  generalize s.abandonSlots = t at hfree
  have hb : ({ s with slots := t.slots, build := none, station := target } : State).Bounded :=
    (h.freed hfree).abandonBuild.setStation htarget
  have hp : ({ s with
      slots := t.slots, build := none, station := target
      probe := { s.probe with due := false, outstanding := none, timer := none, losses := 0 } } : State).Bounded :=
    hb.setLosses (Nat.zero_le _)
  exact ((hp.setAnswers (q := []) (Nat.zero_le _) .nil).setRepairList (q := []) (Nat.zero_le _)).of_same rfl

theorem enterFault (hlocked : s.locked = true) : s.enterFault.Bounded := by
  have hd := h.depart (target := .fault) (.inr hlocked)
  unfold State.enterFault
  generalize s.depart .fault = t at hd
  exact (hd.give _).endDrain

theorem loseProbe : s.loseProbe.Bounded := by
  have ht : { s with probe := { s.probe with outstanding := none, losses := min 3 (s.probe.losses + 1) } }.Bounded :=
    h.setLosses (Nat.min_le_left _ _)
  unfold State.loseProbe
  dsimp only
  split
  · next hlost => exact ht.enterIsolated (h.locked_of_station (by rw [hlost.1]; nofun)) .probes
  · exact ht

/-! ### Own insertions and returns -/

theorem reportSlot (i : SlotNo) (generation : BitVec 4) : (s.reportSlot i generation).Bounded := by
  unfold State.reportSlot
  dsimp only
  split
  · exact h
  · next u hu =>
    split
    · exact h.rewriteSlot
        (v := { u with deadline := some (s.now + s.config.returnLimit.toNat) }) hu rfl (h.attempts i u hu) _
    · exact h

theorem reportProbe (number : BitVec 8) : (s.reportProbe number).Bounded := by
  unfold State.reportProbe
  split
  · split
    · exact h.of_same rfl
    · exact h
  · exact h

theorem reportInsertion (f : List Byte) : (s.reportInsertion f).Bounded := by
  unfold State.reportInsertion
  split
  · exact h.reportProbe _
  · split
    · exact h
    · exact h.reportSlot _ _
  · split
    · exact h
    · exact h.reportSlot _ _
  · exact h.reportSlot _ _
  · exact h

theorem freeFlight (i : SlotNo) (line : Nat) (mustFull : Bool) : ((s.freeSlot i).endFlight i line mustFull).Bounded :=
  (h.freeSlot i).endFlight i line mustFull

theorem updateReturn {i : SlotNo} {u : SlotUse} (hu : (s.slot i).use = some u) (missed : Bool) :
    (s.updateReturn i u missed).Bounded := by
  have hfree := h.freeFlight i u.line
  have hconfirm : ∀ r : LineRecord,
      (if r.watched then ((s.freeSlot i).endFlight i u.line false).give (.confirmed u.line)
        else (s.freeSlot i).endFlight i u.line false).Bounded := by
    intro r
    split
    · exact (hfree false).give _
    · exact hfree false
  unfold State.updateReturn
  dsimp only
  split
  · split
    · exact (hfree false).drainTest
    · split
      · exact (hconfirm _).drainTest
      · split
        · exact (hfree false).drainTest
        · split
          · next hlimit => exact h.makeDue_next hu _ hlimit
          · exact ((hfree false).give _).drainTest
  · split
    · exact (hfree false).drainTest
    · split
      · exact (hconfirm _).drainTest
      · exact (hfree true).drainTest
  · exact (h.freeSlot i).drainTest
  · exact (h.freeSlot i).drainTest

theorem repairUnanswered {i : SlotNo} {u : SlotUse} (hu : (s.slot i).use = some u) : (s.repairUnanswered i u).Bounded := by
  unfold State.repairUnanswered
  split
  · next hlimit => exact h.makeDue_next hu _ hlimit
  · exact ((h.freeSlot i).unlistLine _).give _

theorem updateDeadline {i : SlotNo} {u : SlotUse} (hu : (s.slot i).use = some u) : (s.updateDeadline i u).Bounded := by
  have hfree := h.freeFlight i u.line false
  unfold State.updateDeadline
  dsimp only
  split
  · split
    · exact hfree.drainTest
    · split
      · next hlimit => exact h.makeDue_next hu _ hlimit
      · exact (hfree.give _).drainTest
  · split
    · exact hfree.drainTest
    · exact h.makeDue hu _ (Nat.zero_le _)
  all_goals exact (h.freeSlot i).drainTest

theorem returnFrame (f : List Byte) (p : Purpose) : (s.returnFrame f p).Bounded := by
  unfold State.returnFrame
  dsimp only
  split
  · exact h
  · next u hu =>
    split
    · split
      · exact h.updateReturn hu _
      · split
        · exact h
        · exact h.repairUnanswered hu
    · exact h

theorem probeReturns (map : BitVec 32) : (s.probeReturns map).Bounded := by
  have ht : ({ s with
      membership := map, probe := { s.probe with losses := 0, outstanding := none } } : State).Bounded :=
    (h.setLosses (p := { s.probe with losses := 0, outstanding := none }) (Nat.zero_le _)).of_same rfl
  unfold State.probeReturns
  dsimp only
  have hup : (if s.station = .joining ∨ s.station = .isolated then
      ({ s with
          membership := map, probe := { s.probe with losses := 0, outstanding := none }, station := .online }
        : State).give .ringUp
      else { s with membership := map, probe := { s.probe with losses := 0, outstanding := none } }).Bounded := by
    split
    · next hst =>
      have hlocked : s.locked = true := h.locked_of_station (by obtain hst | hst := hst <;> rw [hst] <;> nofun)
      exact (ht.setStation (st := .online) (.inr hlocked)).give _
    · exact ht
  split
  · exact hup
  · exact hup.give _

theorem strip (hactive : s.station.isActive = true) (f : List Byte) : (s.strip f).Bounded := by
  unfold State.strip
  split
  · unfold State.stripProbe
    split
    · exact h.enterFault (h.locked_of_station (StationState.ne_offline_of_active hactive))
    · split
      · exact h.probeReturns _
      · exact h
  · split
    · exact h
    · exact h.returnFrame f _
  · split
    · exact h
    · exact h.returnFrame f _
  · exact h.returnFrame f _
  · exact h

/-! ### The decisions on a peer's frame -/

theorem queueApply {u : Update} (hu : u.Fits) (hroom : s.applyFullHouse = false) (cause : ApplyCause) :
    (s.queueApply u cause).Bounded := by
  have hlt : s.applyQueue.length < 8 := by simpa [State.applyFullHouse] using hroom
  refine (h.setApplyQueue (q := s.applyQueue ++ [⟨u.line, cause, u.kind, u.stamp, u.mask, u.data⟩]) ?_
    fun e he => ?_).of_same rfl
  · simp; omega
  · obtain he | he := List.mem_append.1 he
    · exact h.entries e he
    · rw [List.mem_singleton.1 he]; exact hu

theorem raiseAndQueue {u : Update} (hu : u.Fits) (hroom : s.applyFullHouse = false) : (s.raiseAndQueue u).Bounded := by
  have hr : (s.raiseRec u (s.lineRec u.line).content).Bounded := h.of_same rfl
  have ht := hr.queueApply hu hroom .raise
  unfold State.raiseAndQueue
  dsimp only
  apply drainTest
  split
  · exact ht.give _
  · exact ht

theorem raiseStale (u : Update) : (s.raiseStale u).Bounded := by
  have hr : (s.raiseRec u .stale).Bounded := h.of_same rfl
  have ht := hr.listLine u.line
  unfold State.raiseStale
  dsimp only
  apply drainTest
  split
  · exact ht.giveBoth _ _
  · exact ht.give _
  · exact ht.give _
  · exact ht

theorem decideUpdate {u : Update} (hu : u.Fits) : (s.decideUpdate u).1.Bounded := by
  have hd := s.decideUpdate_decided u
  generalize (s.decideUpdate u).1 = t at hd ⊢
  cases hd with
  | raised _ hroom => exact h.raiseAndQueue hu hroom
  | stale => exact h.raiseStale u
  | heal _ _ _ _ hroom => exact h.queueApply hu hroom .heal
  | unchanged => exact h

theorem decideRequest (line : Nat) (stamp : Stamp) : (s.decideRequest line stamp).1.Bounded := by
  unfold State.decideRequest
  split
  · next htakes =>
    dsimp only
    split
    · exact h
    · next hnew =>
      have hroom : s.answerQueue.length < 4 := by
        simp only [State.takesRequest, Bool.and_eq_true, Bool.or_eq_true, decide_eq_true_eq] at htakes
        exact htakes.2.resolve_left hnew
      refine h.setAnswers (by simp; omega) ?_
      rw [List.contains_iff_mem] at hnew
      exact List.nodup_append.2 ⟨h.answerNodup, List.nodup_singleton _, fun a ha b hb => by
        rw [List.mem_singleton.1 hb]
        rintro rfl
        exact hnew ha⟩
  · exact h

theorem act {f : List Byte} (hform : Frame.malformed f = false) : (s.act f).1.Bounded := by
  unfold State.act
  dsimp only
  split
  · next hkind =>
    split
    · exact h.decideUpdate (Frame.update_full_fits hkind hform)
    · exact h
  · next hkind =>
    split
    · exact h.decideUpdate (Frame.update_delta_fits hkind hform)
    · exact h
  · split
    · exact h.decideRequest _ _
    · exact h
  · exact h
  · exact h

theorem enterFifo (copy : List Byte) (sent : Nat) : (s.enterFifo copy sent).Bounded := by
  rw [enterFifo_frame]
  exact h.of_same rfl

theorem routeFrame (hactive : s.station.isActive = true) (f : List Byte) (sent : Nat) : (s.routeFrame f sent).Bounded := by
  unfold State.routeFrame
  split
  · exact h
  · next hwell =>
    simp only [Bool.or_eq_true, Bool.not_eq_true', not_or, Bool.not_eq_true] at hwell
    split
    · exact h.strip hactive f
    · split
      · exact h
      · exact (h.act hwell.2).enterFifo _ _

/-! ### The Framer's builds -/

theorem endSweepStep : s.endSweepStep.Bounded := h.of_same rfl

theorem buildProbe : s.buildProbe.Bounded := by
  have hkeep : ∀ {t : State} (p : ProbeRecord) (f : List Byte), t.Bounded → p.losses = t.probe.losses →
      ({ t with probe := p }.handOver f).Bounded :=
    fun p f ht hp => ((ht.setLosses (p := p) (hp ▸ ht.losses)).handOver f)
  unfold State.buildProbe
  dsimp only
  split
  · exact hkeep _ _ h.loseProbe rfl
  · exact hkeep _ _ h rfl
  · exact hkeep _ _ h rfl

theorem buildRetry {i : SlotNo} {u : SlotUse} (hu : (s.slot i).use = some u) : (s.buildRetry i u).Bounded := by
  unfold State.buildRetry State.buildRequest
  dsimp only
  refine State.Bounded.handOver (h.transmit hu ?_ ?_) _
  · rfl
  dsimp only
  split
  · exact Nat.zero_le _
  · exact h.attempts i u hu

theorem serveDue (i : SlotNo) : (s.serveDue i).Bounded := by
  unfold State.serveDue
  split
  · exact h
  · next u hu =>
    have hlocked := h.locked_of_slot hu
    split
    · exact h.buildRetry hu
    · exact h.setBuild fun _ => hlocked
    · exact h.setBuild fun _ => hlocked
    · exact h.setBuild fun _ => hlocked
    · exact h

theorem serveSweep (hlocked : s.locked = true) : s.serveSweep.Bounded := by
  unfold State.serveSweep
  split
  · exact h.setBuild fun _ => hlocked
  · exact (h.listLine _).endSweepStep
  · exact h.endSweepStep

theorem choose : s.choose.Bounded := by
  unfold State.choose
  split
  · exact h.buildProbe
  · split
    · exact h
    · next hon =>
      have hlocked : s.locked = true := h.locked_of_station (by rw [not_not.1 hon]; nofun)
      split
      · exact h.serveDue _
      · split
        · exact h.setBuild fun _ => hlocked
        · split
          · exact (h.transmitRepair hlocked rfl (Nat.zero_le _)).handOver _
          · split
            · exact h.setBuild fun _ => hlocked
            · split
              · exact h.serveSweep hlocked
              · exact h

theorem buildPost (hlocked : s.locked = true) (line : Nat) : (s.buildPost line).Bounded := by
  unfold State.buildPost
  dsimp only
  split
  · exact (h.checkFailure line).abandonBuild.drainTest
  · split
    · next p i _ hslot =>
      have hroom : s.updateSlots < 14 := by
        by_contra hfull
        simp [State.updateSlotFor, hfull] at hslot
      have ht := h.transmitUpdate (i := i) (v := ⟨.update, line, (s.lineRec line).stamp, 0, none, none⟩) hlocked hroom
        (Nat.zero_le _)
      have hp : (((s.transmit i ⟨.update, line, (s.lineRec line).stamp, 0, none, none⟩).setRec line
        { s.lineRec line with pending := .inflight ⟨i, false⟩ }).unpost line).Bounded := ht.of_same rfl
      exact (hp.handOver _).drainTest
    · exact h.abandonBuild

theorem freeUnfit (i : SlotNo) (line : Nat) : (s.freeUnfit i line).Bounded :=
  (h.freeFlight i line _).abandonBuild.drainTest

theorem buildMendResend {i : SlotNo} {u : SlotUse} (hu : (s.slot i).use = some u) : (s.buildMendResend i u).Bounded := by
  unfold State.buildMendResend
  dsimp only
  split
  · exact (h.checkFailure _).freeUnfit i _
  · split
    · exact (h.transmit hu rfl (h.attempts i u hu)).handOver _
    · exact h.freeUnfit i _

theorem buildReplacement {i : SlotNo} {u : SlotUse} (hu : (s.slot i).use = some u) :
    (s.buildReplacement i u).Bounded := by
  unfold State.buildReplacement
  dsimp only
  split
  · exact (h.checkFailure _).freeUnfit i _
  · split
    · next f _ _ =>
      split
      · have ht := h.transmit (v := { u with stamp := (s.lineRec u.line).stamp }) hu rfl (h.attempts i u hu)
        have hp : (((s.transmit i { u with stamp := (s.lineRec u.line).stamp }).setRec u.line
          { s.lineRec u.line with pending := .inflight f }).unpost u.line).Bounded := ht.of_same rfl
        exact (hp.handOver _).drainTest
      · exact h.freeUnfit i _
    all_goals exact h.freeUnfit i _

theorem buildAnswer {line : Nat} {rest : List Nat} (hq : s.answerQueue = line :: rest) :
    (s.buildAnswer line rest).Bounded := by
  have hlength := h.answerLength
  have hnodup := h.answerNodup
  rw [hq] at hlength hnodup
  rw [List.length_cons] at hlength
  have ht : ({ s with answerQueue := rest } : State).Bounded := h.setAnswers (by omega) (List.nodup_cons.1 hnodup).2
  unfold State.buildAnswer
  dsimp only
  split
  · exact (ht.checkFailure _).abandonBuild.drainTest
  · split
    · exact ht.handOver _
    · exact ht.abandonBuild

theorem fetchSweep (line : Nat) : (s.fetchSweep line).Bounded := by
  unfold State.fetchSweep
  split
  · exact (h.checkFailure _).abandonBuild.endSweepStep.drainTest
  · split
    · exact (h.handOver _).endSweepStep
    · exact (h.listLine line).abandonBuild.endSweepStep
    · exact h.abandonBuild.endSweepStep

/-! ### The port -/

theorem complete (ok : Bool) (ld : Option Word) : (s.complete ok ld).Bounded := h.of_same rfl

theorem fail (kind : AccessKind) : (s.fail kind).Bounded := h.of_same rfl

theorem refuseWrite (line : Nat) (reason : RefuseReason) : (s.refuseWrite line reason).Bounded :=
  (h.give _).complete false none

theorem admitAccess (a : Access) : (s.admitAccess a).Bounded := by
  unfold State.admitAccess
  dsimp only
  split
  · split
    · exact h.fail _
    · exact h.refuseWrite _ _
  · split
    · exact h.refuseWrite _ _
    · split <;> exact h.of_same rfl

theorem takeAccess (a : Access) : (s.takeAccess a).Bounded := by
  unfold State.takeAccess
  split
  · exact h.of_same rfl
  · split
    · exact h.fail _
    · split
      · split
        · exact h.complete _ _
        · exact h.admitAccess a
      · exact h.admitAccess a

theorem resumeCleared : s.resumeCleared.Bounded := by
  unfold State.resumeCleared
  split
  · split
    · exact h.takeAccess _
    · exact h
  · exact h

theorem resumeApplied : s.resumeApplied.Bounded := by
  unfold State.resumeApplied
  split
  · split
    · exact h.of_same rfl
    · exact h
  · exact h

theorem sampleHold (lhold noByte : Bool) : (s.sampleHold lhold noByte).Bounded := by
  unfold State.sampleHold
  (repeat' split) <;> exact h.of_same rfl

theorem strikeAndBind (a : Access) (u : Option Upset) : ((s.strike (lineOf a.la) u).bindHold a).Bounded := by
  rw [State.bindHold_eq]
  exact (h.strike _ u).of_same rfl

theorem readWord (la : BitVec 15) : (s.readWord la).Bounded := by
  unfold State.readWord
  dsimp only
  split
  · exact ((h.checkFailure _).fail _).drainTest
  · split
    · exact h.fail _
    · exact h.complete _ _

theorem writeWord (la : BitVec 15) (be : BitVec 4) (ld : Word) : (s.writeWord la be ld).Bounded := by
  unfold State.writeWord
  dsimp only
  split
  · split
    · exact h.refuseWrite _ _
    · exact ((h.checkFailure _).refuseWrite _ _).drainTest
  · exact h.of_same rfl

theorem failWaiting : s.failWaiting.Bounded := by
  unfold State.failWaiting
  split
  · split
    · split
      · exact h.fail _
      · exact h.refuseWrite _ _
    · exact h
  · exact h

/-! ### The control window, RESET and the clearing pass -/

theorem answer (code : BitVec 8) (arg : BitVec 16) (result : CommandResult) : (s.answer code arg result).Bounded :=
  h.of_same rfl

/-- An accepted START locks a record in range (R149, R151, R153). -/
theorem join (hvalid : s.locked = true ∨ s.configValid = true) : s.join.Bounded := by
  have hretry : s.config.retryLimit.toNat ≤ 7 := by
    obtain hlocked | hvalid := hvalid
    · exact h.retryLimit hlocked
    · simp only [State.configValid, ConfigRecord.inRange, Bool.and_eq_true, decide_eq_true_eq] at hvalid
      omega
  have ht : ({ s with
      locked := true, station := .joining
      probe := { s.probe with due := true, timer := some (s.now + s.config.probeInterval.toNat) } } : State).Bounded :=
    { h with retryLimit := fun _ => hretry, unlocked := fun hl => nomatch hl }
  unfold State.join State.joinRing
  dsimp only
  split <;> exact ht.of_same rfl

theorem execStart_meets (arg : BitVec 16) : (execStart arg s).Meets State.Bounded := by
  simp only [execStart, Result.meets_next]
  split
  · exact h
  · split
    · exact h.answer _ _ _
    · split
      · exact h.answer _ _ _
      · split
        · exact h.answer _ _ _
        · next hvalid =>
          refine (h.join ?_).answer _ _ _
          cases hl : s.locked <;> cases hc : s.configValid <;> simp [hl, hc] at hvalid ⊢

theorem clearLine : s.clearLine.Bounded := by
  unfold State.clearLine
  split
  · next line _ =>
    have ht : ∀ p, ({ s.writeLine line (List.replicate 32 0) with phase := p } : State).Bounded := by
      intro p
      generalize List.replicate 32 (0 : Byte) = bytes
      exact h.of_same rfl
    dsimp only
    split
    · exact ht _
    · exact (ht .ended).resumeCleared
  all_goals exact h

end State.Bounded
end Sys2Proof.Machine

namespace Sys2Proof.Machine

/-! ## The step keeps the capacities -/

/-- The commands that move no capacity: the time, the ring side's symbols and switches, the sweep's timer and latch, and the
reads and commands of the control window that give no notice. -/
def leavesCapacities : Instr → Bool
  | .resetRelease | .watch _ | .unwatch _ | .query _ | .intenable _ | .unknownCommand _ | .statusRead | .readOnlyWrite _ _ _
  | .unassignedAccess _ _ | .lholdDeasserted | .receptionBrokenOff _ | .carrierRegained | .outputArbiterChoice
  | .switchToActive _ | .switchToPassThrough | .probeIntervalExpiry | .sweepTick | .frameInReceptionBegins
  | .passThroughRepeatBegins => true
  | _ => false

theorem exec_leavesCapacities {i : Instr} (hi : leavesCapacities i = true) (s : State) :
    Result.Meets (exec i s) fun t => t.capacities = s.capacities := by
  cases i
  case resetRelease => simp only [exec, execResetRelease, State.releaseReset, Result.meets_next]; split <;> rfl
  case watch => simp only [exec, execWatch, Result.meets_next]; (repeat' split) <;> rfl
  case unwatch => simp only [exec, execUnwatch, Result.meets_next]; (repeat' split) <;> rfl
  case query => simp only [exec, execQuery, Result.meets_next]; (repeat' split) <;> rfl
  case intenable => simp only [exec, execIntenable, Result.meets_next]; (repeat' split) <;> rfl
  case unknownCommand => simp only [exec, execUnknownCommand, Result.meets_next]; (repeat' split) <;> rfl
  case statusRead => simp only [exec, execStatusRead, Result.meets_next]; (repeat' split) <;> rfl
  case readOnlyWrite => simp only [exec, execReadOnlyWrite, Result.meets_next]; (repeat' split) <;> rfl
  case unassignedAccess => simp only [exec, execUnassignedAccess, Result.meets_next]; (repeat' split) <;> rfl
  case lholdDeasserted => simp only [exec, execLholdDeasserted, Result.meets_next]; (repeat' split) <;> rfl
  case receptionBrokenOff => simp only [exec, execReceptionBrokenOff, Result.meets_next]; (repeat' split) <;> rfl
  case carrierRegained => simp only [exec, execCarrierRegained, Result.meets_next]; (repeat' split) <;> rfl
  case outputArbiterChoice =>
    simp only [exec, execOutputArbiterChoice, State.chooseOutput, State.endForwarded, Result.meets_next]
    (repeat' split) <;> rfl
  case switchToActive => simp only [exec, execSwitchToActive, Result.meets_next]; (repeat' split) <;> rfl
  case switchToPassThrough =>
    simp only [exec, execSwitchToPassThrough, State.endForwarded, Result.meets_next]
    (repeat' split) <;> rfl
  case probeIntervalExpiry => simp only [exec, execProbeIntervalExpiry, Result.meets_next]; split <;> rfl
  case sweepTick => simp only [exec, execSweepTick, Result.meets_next]; split <;> rfl
  case frameInReceptionBegins => simp only [exec, execFrameInReceptionBegins, Result.meets_next]; (repeat' split) <;> rfl
  case passThroughRepeatBegins => simp only [exec, execPassThroughRepeatBegins, Result.meets_next]; (repeat' split) <;> rfl
  all_goals cases hi

namespace State.Bounded

theorem assertReset (s : State) : s.assertReset.Bounded := reset.of_same rfl

variable {s : State} (h : s.Bounded)
include h

theorem execReplicaRead_meets (la : BitVec 15) (lhold : Bool) : (execReplicaRead la lhold s).Meets State.Bounded := by
  simp only [execReplicaRead, Result.meets_next]
  split
  · exact (h.sampleHold lhold false).takeAccess _
  · exact h

theorem execReplicaWrite_meets (la : BitVec 15) (be : BitVec 4) (ld : Word) (lhold : Bool) :
    (execReplicaWrite la be ld lhold s).Meets State.Bounded := by
  simp only [execReplicaWrite, Result.meets_next]
  split
  · exact (h.sampleHold lhold _).takeAccess _
  · exact h

/-- The configuration is written while it is unlocked alone (R150). -/
theorem execConfigWrite_meets (word : BitVec 2) (value : Word) :
    (execConfigWrite word value s).Meets State.Bounded := by
  simp only [execConfigWrite, Result.meets_next]
  split
  · exact h
  · split
    · exact h.of_same rfl
    · next hl =>
      have hc : ({ s with config := s.config.withWord word value } : State).Bounded :=
        { h with retryLimit := fun hlocked => absurd hlocked hl }
      exact hc.of_same rfl

theorem execLeave_meets (arg : BitVec 16) : (execLeave arg s).Meets State.Bounded := by
  refine Sys2Proof.Machine.execLeave_meets h arg (h.answer _ _ _) ?_
  have hd := h.depart (target := .offline) (.inl rfl)
  generalize s.depart .offline = t at hd
  exact hd.endDrain.answer _ _ _

theorem execDrain_meets (arg : BitVec 16) : (execDrain arg s).Meets State.Bounded := by
  have hp : ({ s with drainPending := true } : State).Bounded := h.of_same rfl
  simp only [execDrain, Result.meets_next]
  split
  · exact h
  · split
    · exact h.answer _ _ _
    · split
      · exact h.answer _ _ _
      · exact hp.drainTest.answer _ _ _

theorem execNoticeRead_meets : (execNoticeRead s).Meets State.Bounded := by
  simp only [execNoticeRead, Result.meets_next]
  split
  · exact h
  · exact (h.setNotices h.notices.tail).complete _ _

theorem execHoldBreak_meets : (execHoldBreak s).Meets State.Bounded := by
  simp only [execHoldBreak, Result.meets_next]
  split
  · next line t _ =>
    have hb : ({ s.reach t with hold := .broken line } : State).Bounded := h.of_same rfl
    exact (hb.give _).failWaiting
  all_goals exact h

/-- Every command keeps the invariant. -/
theorem exec_meets (i : Instr) : Result.Meets (exec i s) State.Bounded := by
  by_cases hi : leavesCapacities i = true
  · exact fun t ht => h.of_same (exec_leavesCapacities hi s t ht)
  cases i
  case reset => exact Result.meets_next.2 (assertReset s)
  case clearingPassClaim => exact Result.meets_next.2 h.clearLine
  case replicaRead la lhold => exact h.execReplicaRead_meets la lhold
  case readClaimGranted u =>
    exact execReadClaimGranted_meets h u (fun _ _ => h.of_same rfl) fun a _ => (h.strikeAndBind a u).readWord a.la
  case replicaWrite la be ld lhold => exact h.execReplicaWrite_meets la be ld lhold
  case writeClaimGranted u =>
    exact execWriteClaimGranted_meets h u (fun _ _ => h.of_same rfl)
      fun a be ld _ => (h.strikeAndBind a u).writeWord a.la be ld
  case configWrite word value => exact h.execConfigWrite_meets word value
  case start arg => exact h.execStart_meets arg
  case leave arg => exact h.execLeave_meets arg
  case drain arg => exact h.execDrain_meets arg
  case noticeRead => exact h.execNoticeRead_meets
  case holdBreak => exact h.execHoldBreak_meets
  case frameReceivedWhole bytes sent =>
    have ht : ({ s with receiving := false } : State).Bounded := h.of_same rfl
    exact execFrameReceivedWhole_meets_receiving h bytes sent ht
      fun hr => ht.routeFrame (State.active_of_receives hr) bytes sent
  case carrierLost =>
    have ht : ({ s with carrier := false, receiving := false } : State).Bounded := h.of_same rfl
    refine execCarrierLost_meets_joined h ht fun hst => ht.enterIsolated (h.locked_of_station ?_) .carrier
    obtain hst | hst := hst <;> rw [hst] <;> nofun
  case insertionComplete =>
    have ht : ({ s with sending := .idle, place := none } : State).Bounded := h.of_same rfl
    exact execInsertionComplete_meets h fun f _ => ht.reportInsertion f
  case framerChoice => exact execFramerChoice_meets h h.choose
  case postBuild u =>
    refine execPostBuild_meets h u fun line hb => (h.strike line u).buildPost ?_ line
    rw [strike_locked]
    exact h.locked_of_build hb.1
  case mendResendBuild u =>
    refine execMendResendBuild_meets h u h.abandonBuild fun i v _ hv => (h.strike v.line u).buildMendResend ?_
    rw [strike_slot]
    exact hv
  case replacementBuild u =>
    refine execReplacementBuild_meets h u h.abandonBuild fun i v _ hv => (h.strike v.line u).buildReplacement ?_
    rw [strike_slot]
    exact hv
  case answerBuild u =>
    refine execAnswerBuild_meets h u h.abandonBuild fun line rest _ hq => (h.strike line u).buildAnswer ?_
    rw [strike_answerQueue]
    exact hq
  case sweepRefreshFetch u => exact execSweepRefreshFetch_meets h u fun _ => (h.strike _ u).fetchSweep _
  case applyFull => exact execApplyFull_meets h fun e rest hq _ _ => (h.applyFullEntry hq).resumeApplied
  case applyDelta u => exact execApplyDelta_meets h u fun e rest hq _ _ => (h.applyDeltaEntry hq u).resumeApplied
  case updateDeadline i =>
    refine execUpdateDeadline_meets h i fun u d hu _ _ => ?_
    have ht : (s.reach d).Bounded := h.of_same rfl
    exact ht.updateDeadline hu
  case repairDeadline i =>
    refine execRepairDeadline_meets h i fun u d hu _ _ => ?_
    have ht : (s.reach d).Bounded := h.of_same rfl
    exact ht.repairUnanswered hu
  case probeLost =>
    refine execProbeLost_meets h fun d => ?_
    have ht : (s.reach d).Bounded := h.of_same rfl
    exact ht.loseProbe
  all_goals exact absurd rfl hi

end State.Bounded

/-- Settles O56: the tick moves the time and the queue of commands alone, and every command keeps the invariant. -/
theorem stepsKeepTheCapacities : Obligations.StepsKeepTheCapacities := by
  unfold Obligations.StepsKeepTheCapacities
  intro s t h hstep
  rw [← State.bounded_iff] at h ⊢
  exact step_meets (fun _ hs => hs.of_same rfl) (fun _ _ hs => hs.of_same rfl) (fun i _ hs => hs.exec_meets i) h t hstep

end Sys2Proof.Machine

/-! # Records, lists and slots in agreement

What the Apply Queue, the Repair List, the Post List and the Outstanding Table hold for a line is said of the line's record,
so that a step that moves one line is shown for that line alone (R35, R55, R60, R103, R104). -/

namespace Sys2Proof.Machine

/-! ## The slots that name a line -/

theorem Slot.names_iff {x : Slot} {u : SlotUse} (hu : x.use = some u) (p : Purpose) (l : Nat) :
    x.names p l = true ↔ u.purpose = p ∧ u.line = l := by
  simp [Slot.names, hu]

theorem Slot.names_eq_false {x : Slot} (hfree : x.use = none) (p : Purpose) (l : Nat) : x.names p l = false := by
  simp [Slot.names, hfree]

theorem Slot.names_congr {x y : Slot} (h : x.use.map SlotUse.purpose = y.use.map SlotUse.purpose)
    (h' : x.use.map SlotUse.line = y.use.map SlotUse.line) (p : Purpose) (l : Nat) : x.names p l = y.names p l := by
  obtain ⟨g, u⟩ := x
  obtain ⟨g', u'⟩ := y
  cases u <;> cases u' <;> simp_all [Slot.names]

theorem Slot.not_names_of_line {x : Slot} {u : SlotUse} (hu : x.use = some u) {l : Nat} (hl : l ≠ u.line) (p : Purpose) :
    x.names p l = false := by
  rw [Bool.eq_false_iff, ne_eq, Slot.names_iff hu]
  exact fun h => hl h.2.symm

/-- A freed slot names no line, and the others name what they did. -/
theorem State.names_freeSlot (s : State) (i j : SlotNo) (p : Purpose) (l : Nat) :
    ((s.freeSlot i).slot j).names p l = if j = i then false else (s.slot j).names p l := by
  split
  · next h => rw [h, State.slot_freeSlot_same]; exact Slot.names_eq_false rfl p l
  · next h => rw [State.slot_freeSlot_other s h]

theorem State.names_freeRepairSlot (s : State) (line : Nat) (i : SlotNo) (p : Purpose) (l : Nat) :
    ((s.freeRepairSlot line).slot i).names p l =
      if (s.slot i).names .repair line = true then false else (s.slot i).names p l := by
  rw [State.slot_freeRepairSlot]
  split
  · exact Slot.names_eq_false rfl p l
  · rfl

/-! ## The end of a flight -/

/-- The pending state after the flight that a slot carried has ended (R71, R82 to R86). -/
def Pending.ended (i : SlotNo) (mustFull : Bool) : Pending → Pending
  | .inflight f => if f.slot = i then .idle else .inflight f
  | .inflightPosted f p =>
    if f.slot = i then .posted { p with mustFull := p.mustFull || mustFull } else .inflightPosted f p
  | .idle => .idle
  | .posted p => .posted p

theorem Pending.post_ended (i : SlotNo) (mustFull : Bool) (p : Pending) :
    (p.ended i mustFull).post.isSome = p.post.isSome := by
  cases p <;> simp only [Pending.ended] <;> (try split) <;> rfl

theorem Pending.flight_ended (i : SlotNo) (mustFull : Bool) (p : Pending) :
    (p.ended i mustFull).flight.map Flight.slot = (p.flight.map Flight.slot).filter (· ≠ i) := by
  cases p <;> simp only [Pending.ended] <;> (try split) <;> simp_all [Pending.flight, Option.filter_some]

theorem State.lineRec_endFlight (s : State) (i : SlotNo) (line : Nat) (mustFull : Bool) :
    (s.endFlight i line mustFull).lineRec line =
      { s.lineRec line with pending := (s.lineRec line).pending.ended i mustFull } := by
  rw [State.endFlight_rec]
  cases (s.lineRec line).pending <;> rfl

theorem State.wf_endFlight {s : State} (h : Sparse.Wf LineRecord.reset s.lines) (i : SlotNo) (line : Nat)
    (mustFull : Bool) : Sparse.Wf LineRecord.reset (s.endFlight i line mustFull).lines := by
  unfold State.endFlight
  dsimp only
  split
  · split
    · exact h.set _ _ _
    · exact h
  · split
    · exact h.set _ _ _
    · exact h
  all_goals exact h

/-! ## The invariant, line by line -/

/-- What the lists and the slots hold for a line whose record is `r`; `named` tells which slots name it, by their purpose. -/
structure LineRecord.Tracked (queue : List ApplyEntry) (repairs : List RepairEntry) (posts : List Nat)
    (named : Purpose → SlotNo → Bool) (l : Nat) (r : LineRecord) : Prop where
  applyMark : r.applyPending = queue.any fun e => e.line == l
  listedMark : r.listed = repairs.any fun e => e.line == l
  listedUntrusted : r.listed = true → r.content ≠ .valid
  posted : l ∈ posts ↔ r.pending.post.isSome = true
  flight : ∀ i, named .update i = true ↔ r.pending.flight.map Flight.slot = some i
  repairUnique : ∀ i j, named .repair i = true → named .repair j = true → i = j
  repairListed : ∀ i, named .repair i = true → r.listed = true

/-- Which slots name a line. -/
def State.named (s : State) (l : Nat) (p : Purpose) (i : SlotNo) : Bool := (s.slot i).names p l

theorem State.named_transmit (s : State) (i : SlotNo) (v : SlotUse) (l : Nat) (p : Purpose) (j : SlotNo) :
    (s.transmit i v).named l p j = if j = i then decide (v.purpose = p ∧ v.line = l) else s.named l p j := by
  unfold State.named
  split
  · next hij =>
    subst hij
    rw [State.transmit, State.slot_setSlot_same]
    simp [Slot.names, Bool.decide_and]
    rfl
  · next hij => rw [State.transmit, State.slot_setSlot_other s _ hij]

/-- Every line's record agrees with the lists and the slots, and no list holds a line twice. -/
structure State.Tracked (s : State) : Prop where
  linesWf : Sparse.Wf LineRecord.reset s.lines
  line : ∀ l, (s.lineRec l).Tracked s.applyQueue s.repairList s.postList (s.named l) l
  repairNodup : (s.repairList.map RepairEntry.line).Nodup
  postNodup : s.postList.Nodup

theorem State.tracked_iff (s : State) : s.Tracked ↔ s.ListsAgree ∧ s.SlotsAgree := by
  constructor
  · intro h
    refine ⟨⟨h.linesWf, fun l => (h.line l).applyMark,
      ⟨fun l => (h.line l).listedMark, h.repairNodup, fun l => (h.line l).listedUntrusted⟩,
      fun l => (h.line l).posted, h.postNodup⟩, fun l f hf => ((h.line l).flight f.slot).2 (by rw [hf]; rfl),
      fun i l hi => ?_, fun i j l => (h.line l).repairUnique i j, fun i l => (h.line l).repairListed i⟩
    obtain ⟨f, hf, hslot⟩ := Option.map_eq_some_iff.1 (((h.line l).flight i).1 hi)
    exact ⟨f, hf, hslot⟩
  · rintro ⟨⟨hwf, happly, ⟨hlisted, hrepairs, huntrusted⟩, hposted, hposts⟩, htracked, hflight, hunique, hrepair⟩
    refine ⟨hwf, fun l => ⟨happly l, hlisted l, huntrusted l, hposted l, fun i => ⟨fun hi => ?_, fun hi => ?_⟩,
      fun i j => hunique i j l, fun i => hrepair i l⟩, hrepairs, hposts⟩
    · obtain ⟨f, hf, rfl⟩ := hflight i l hi
      rw [hf]; rfl
    · obtain ⟨f, hf, rfl⟩ := Option.map_eq_some_iff.1 hi
      exact htracked l f hf

section
variable {queue queue' : List ApplyEntry} {repairs repairs' : List RepairEntry} {posts posts' : List Nat}
  {named named' : Purpose → SlotNo → Bool} {l : Nat} {r : LineRecord}

/-- A record agrees with lists and slots that hold the same for its line. -/
theorem LineRecord.Tracked.congr_lists (h : r.Tracked queue repairs posts named l)
    (hq : ∀ e : ApplyEntry, e.line = l → (e ∈ queue' ↔ e ∈ queue))
    (hr : ∀ e : RepairEntry, e.line = l → (e ∈ repairs' ↔ e ∈ repairs)) (hp : l ∈ posts' ↔ l ∈ posts)
    (hn : ∀ p i, named' p i = named p i) : r.Tracked queue' repairs' posts' named' l where
  applyMark := by
    rw [h.applyMark, Bool.eq_iff_iff]
    simp only [List.any_eq_true, beq_iff_eq]
    exact exists_congr fun e => and_congr_left fun he => (hq e he).symm
  listedMark := by
    rw [h.listedMark, Bool.eq_iff_iff]
    simp only [List.any_eq_true, beq_iff_eq]
    exact exists_congr fun e => and_congr_left fun he => (hr e he).symm
  listedUntrusted := h.listedUntrusted
  posted := hp.trans h.posted
  flight i := by rw [hn]; exact h.flight i
  repairUnique i j := by rw [hn, hn]; exact h.repairUnique i j
  repairListed i := by rw [hn]; exact h.repairListed i

/-- The stamp, the watched mark and a listed line's content among the untrusted ones may move, and so may the pending state
where the post and the flight's slot stay. -/
theorem LineRecord.Tracked.move (h : r.Tracked queue repairs posts named l) {r' : LineRecord}
    (happly : r'.applyPending = r.applyPending) (hlisted : r'.listed = r.listed)
    (hc : r'.listed = true → r'.content ≠ .valid) (hpost : r'.pending.post.isSome = r.pending.post.isSome)
    (hflight : r'.pending.flight.map Flight.slot = r.pending.flight.map Flight.slot) :
    r'.Tracked queue repairs posts named l where
  applyMark := happly.trans h.applyMark
  listedMark := hlisted.trans h.listedMark
  listedUntrusted := hc
  posted := by rw [hpost]; exact h.posted
  flight := by rw [hflight]; exact h.flight
  repairUnique := h.repairUnique
  repairListed := by rw [hlisted]; exact h.repairListed

end

namespace State.Tracked

/-- The invariant looks at the records, the lists that follow them and the slots. -/
theorem of_same {s t : State} (h : s.Tracked) (hlines : t.lines = s.lines) (hqueue : t.applyQueue = s.applyQueue)
    (hrepairs : t.repairList = s.repairList) (hposts : t.postList = s.postList)
    (hnamed : ∀ l p i, t.named l p i = s.named l p i) : t.Tracked := by
  have hrec : ∀ l, t.lineRec l = s.lineRec l := State.lineRec_congr hlines
  refine ⟨hlines ▸ h.linesWf, fun l => ?_, hrepairs ▸ h.repairNodup, hposts ▸ h.postNodup⟩
  rw [hrec, hqueue, hrepairs, hposts]
  exact (h.line l).congr_lists (fun _ _ => Iff.rfl) (fun _ _ => Iff.rfl) Iff.rfl (hnamed l)

theorem of_holdings {s t : State} (h : s.Tracked) (e : t.holdings = s.holdings) : t.Tracked :=
  h.of_same (congrArg Holdings.lines e) (congrArg Holdings.applyQueue e) (congrArg Holdings.repairList e)
    (congrArg Holdings.postList e) fun l p i => by
      rw [State.named, State.named, slots_eq_of_slot (congrArg Holdings.slots e)]

/-- A step that moves one line keeps the invariant when the lists and slots change for that line alone and its record agrees
with them. -/
theorem of_line {s t : State} (h : s.Tracked) (line : Nat) (hwf : Sparse.Wf LineRecord.reset t.lines)
    (hrec : ∀ l, l ≠ line → t.lineRec l = s.lineRec l)
    (hq : ∀ e : ApplyEntry, e.line ≠ line → (e ∈ t.applyQueue ↔ e ∈ s.applyQueue))
    (hr : ∀ e : RepairEntry, e.line ≠ line → (e ∈ t.repairList ↔ e ∈ s.repairList))
    (hp : ∀ l, l ≠ line → (l ∈ t.postList ↔ l ∈ s.postList))
    (hn : ∀ l, l ≠ line → ∀ p i, t.named l p i = s.named l p i)
    (hline : (t.lineRec line).Tracked t.applyQueue t.repairList t.postList (t.named line) line)
    (hrepairs : (t.repairList.map RepairEntry.line).Nodup) (hposts : t.postList.Nodup) : t.Tracked := by
  refine ⟨hwf, fun l => ?_, hrepairs, hposts⟩
  by_cases hl : l = line
  · rw [hl]; exact hline
  · rw [hrec l hl]
    exact (h.line l).congr_lists (fun _ he => hq _ (he ▸ hl)) (fun _ he => hr _ (he ▸ hl)) (hp l hl) (hn l hl)

variable {s : State} (h : s.Tracked)
include h

/-! ### One line's record and lists -/

theorem setRec {line : Nat} {r : LineRecord}
    (hr : r.Tracked s.applyQueue s.repairList s.postList (s.named line) line) : (s.setRec line r).Tracked :=
  h.of_line line (h.linesWf.set _ _ _) (fun _ hl => State.lineRec_setRec_other s r hl) (fun _ _ => Iff.rfl)
    (fun _ _ => Iff.rfl) (fun _ _ => Iff.rfl) (fun _ _ _ _ => rfl)
    (by rw [State.lineRec_setRec_same]; exact hr) h.repairNodup h.postNodup

/-- A line's pending state moves where the post and the flight's slot stay. -/
theorem setPending (line : Nat) {p : Pending} (hpost : p.post.isSome = (s.lineRec line).pending.post.isSome)
    (hflight : p.flight.map Flight.slot = (s.lineRec line).pending.flight.map Flight.slot) :
    (s.setRec line { s.lineRec line with pending := p }).Tracked :=
  h.setRec ((h.line line).move rfl rfl (h.line line).listedUntrusted hpost hflight)

theorem setWatched (line : Nat) (watched : Bool) : (s.setWatched line watched).Tracked :=
  h.setRec ((h.line line).move rfl rfl (h.line line).listedUntrusted rfl rfl)

/-- A line's post ends, with any stamp and content that a listed line may have. -/
theorem endPost {line : Nat} {r : LineRecord} (happly : r.applyPending = (s.lineRec line).applyPending)
    (hlisted : r.listed = (s.lineRec line).listed) (hc : r.listed = true → r.content ≠ .valid)
    (hpost : r.pending.post.isSome = false)
    (hflight : r.pending.flight.map Flight.slot = (s.lineRec line).pending.flight.map Flight.slot) :
    ((s.setRec line r).unpost line).Tracked := by
  have hrec : ∀ l, ((s.setRec line r).unpost line).lineRec l = (s.setRec line r).lineRec l := fun _ => rfl
  have hl := h.line line
  refine h.of_line line (h.linesWf.set _ _ _) (fun l hl => ?_) (fun _ _ => Iff.rfl) (fun _ _ => Iff.rfl)
    (fun l hl => ?_) (fun _ _ _ _ => rfl) ?_ h.repairNodup (h.postNodup.filter _)
  · rw [hrec, State.lineRec_setRec_other s r hl]
  · simp [State.unpost, hl]
  · rw [hrec, State.lineRec_setRec_same]
    exact {
      applyMark := happly.trans hl.applyMark
      listedMark := hlisted.trans hl.listedMark
      listedUntrusted := hc
      posted := by simp [State.unpost, hpost]
      flight := by rw [hflight]; exact hl.flight
      repairUnique := hl.repairUnique
      repairListed := by rw [hlisted]; exact hl.repairListed }

/-- A post begins on a line that has none (R10, R51, R52). -/
theorem beginPost {line : Nat} (hnone : (s.lineRec line).pending.post.isSome = false) (stamp : Stamp) {p : Pending}
    (hp : p.post.isSome = true)
    (hflight : p.flight.map Flight.slot = (s.lineRec line).pending.flight.map Flight.slot) :
    ({ s.setRec line { s.lineRec line with stamp, pending := p } with
        postList := s.postList ++ [line] } : State).Tracked := by
  have hl := h.line line
  have hnot : line ∉ s.postList := fun hmem => by
    rw [hl.posted, hnone] at hmem
    cases hmem
  have hrec := State.lineRec_setRec_same s line { s.lineRec line with stamp, pending := p }
  have hline : ({ s.lineRec line with stamp, pending := p } : LineRecord).Tracked s.applyQueue s.repairList
      (s.postList ++ [line]) (s.named line) line :=
    { hl with
      posted := by simp [hp]
      flight := by rw [hflight]; exact hl.flight }
  refine h.of_line line (h.linesWf.set _ _ _) (fun l hl => State.lineRec_setRec_other s _ hl) (fun _ _ => Iff.rfl)
    (fun _ _ => Iff.rfl) (fun l hl => ?_) (fun _ _ _ _ => rfl) (hrec.symm ▸ hline) h.repairNodup ?_
  · simp [hl]
  · exact List.nodup_append.2 ⟨h.postNodup, by simp, by
      intro a hmem b hb
      rw [List.mem_singleton.1 hb]
      rintro rfl
      exact hnot hmem⟩

/-- An untrusted line may be listed (R46, R98, R103). -/
theorem listLine {line : Nat} (hc : (s.lineRec line).content ≠ .valid) : (s.listLine line).Tracked := by
  by_cases hno : (s.lineRec line).listed = true ∨ 32 ≤ s.repairList.length
  · rw [State.listLine_of_not s line hno]; exact h
  · obtain ⟨hunlisted, hroom⟩ := not_or.1 hno
    rw [Bool.not_eq_true] at hunlisted
    have hl := h.line line
    have hfresh : ∀ e ∈ s.repairList, e.line ≠ line := by
      intro e he hline
      have := hl.listedMark
      rw [hunlisted, eq_comm, List.any_eq_false] at this
      exact this e he (beq_iff_eq.2 hline)
    rw [State.listLine_of_room s line hunlisted (by omega)]
    have hrec := State.lineRec_setRec_same s line { s.lineRec line with listed := true }
    have hline : ({ s.lineRec line with listed := true } : LineRecord).Tracked s.applyQueue
        (s.repairList ++ [⟨line, s.now⟩]) s.postList (s.named line) line :=
      { hl with
        listedMark := by simp
        listedUntrusted := fun _ => hc
        repairListed := fun _ _ => rfl }
    refine h.of_line line (h.linesWf.set _ _ _) (fun l hl => State.lineRec_setRec_other s _ hl) (fun _ _ => Iff.rfl)
      (fun e he => ?_) (fun _ _ => Iff.rfl) (fun _ _ _ _ => rfl) (hrec.symm ▸ hline) ?_ h.postNodup
    · simp only [List.mem_append, List.mem_singleton, or_iff_left_iff_imp]
      rintro rfl
      exact absurd rfl he
    · simp only [List.map_append, List.map_cons, List.map_nil]
      refine List.nodup_append.2 ⟨h.repairNodup, by simp, ?_⟩
      intro a ha b hb
      obtain ⟨e, he, rfl⟩ := List.mem_map.1 ha
      rw [List.mem_singleton.1 hb]
      exact hfresh e he

/-- A line with no REPAIR slot may leave the Repair List (R103, R104). -/
theorem unlistLine {line : Nat} (hfree : ∀ i, s.named line .repair i = false) : (s.unlistLine line).Tracked := by
  have hrec : (s.unlistLine line).lineRec line = { s.lineRec line with listed := false } := by
    rw [State.lineRec_unlistLine, if_pos rfl]
  have hline : ({ s.lineRec line with listed := false } : LineRecord).Tracked s.applyQueue (s.unlistLine line).repairList
      s.postList (s.named line) line :=
    { h.line line with
      listedMark := by
        rw [eq_comm, List.any_eq_false]
        intro e he hl
        exact ((State.mem_unlistLine s line e).1 he).2 (beq_iff_eq.1 hl)
      listedUntrusted := fun hl => nomatch hl
      repairListed := fun i hi => nomatch (hfree i).symm.trans hi }
  refine h.of_line line (h.linesWf.set _ _ _) (fun l hl => State.lineRec_setRec_other s _ hl) (fun _ _ => Iff.rfl)
    (fun e he => ?_) (fun _ _ => Iff.rfl) (fun _ _ _ _ => rfl) (hrec.symm ▸ hline)
    (h.repairNodup.sublist (List.filter_sublist.map _)) h.postNodup
  rw [State.mem_unlistLine]
  exact and_iff_left he

/-- Where no slot is in use, the Repair List is emptied with every listed mark (R16, R118). -/
theorem unlistAll (hfree : ∀ i, (s.slot i).use = none) : s.unlistAll.Tracked where
  linesWf := State.wf_unlistAll h.linesWf
  line l := by
    rw [State.lineRec_unlistAll s h.linesWf]
    exact { h.line l with
      listedMark := rfl
      listedUntrusted := fun hl => nomatch hl
      repairListed := fun i hi => nomatch (Slot.names_eq_false (hfree i) .repair l).symm.trans hi }
  repairNodup := List.nodup_nil
  postNodup := h.postNodup

/-! ### Slots -/

/-- A slot's record may change where it names the same line for the same purpose. -/
theorem rewriteSlot {i : SlotNo} {u v : SlotUse} (hu : (s.slot i).use = some u) (hpurpose : v.purpose = u.purpose)
    (hline : v.line = u.line) (generation : BitVec 4) : (s.setSlot i ⟨generation, some v⟩).Tracked :=
  h.of_same rfl rfl rfl rfl fun l p j => by
    unfold State.named
    by_cases hij : j = i
    · subst hij
      rw [State.slot_setSlot_same]
      exact Slot.names_congr (by simp [hu, hpurpose]) (by simp [hu, hline]) p l
    · rw [State.slot_setSlot_other s _ hij]

theorem makeDue {i : SlotNo} {u : SlotUse} (hu : (s.slot i).use = some u) (kind : TxKind) (n : Nat) :
    (s.makeDue i u kind n).Tracked :=
  { h.rewriteSlot (v := { u with attempts := n, due := some ⟨kind, s.dueCount⟩, deadline := none }) hu rfl rfl
      (s.slot i).generation with }

theorem transmit {i : SlotNo} {u v : SlotUse} (hu : (s.slot i).use = some u) (hpurpose : v.purpose = u.purpose)
    (hline : v.line = u.line) : (s.transmit i v).Tracked :=
  h.rewriteSlot (v := { v with due := none, deadline := none }) hu hpurpose hline _

/-- A free slot is taken for the repair of a listed line that has none (R61, R72). -/
theorem transmitRepair {i : SlotNo} (hi : (s.slot i).use = none) {v : SlotUse} (hv : v.purpose = .repair)
    (hlisted : (s.lineRec v.line).listed = true) (hnone : ∀ j, s.named v.line .repair j = false) :
    (s.transmit i v).Tracked := by
  have hnamed := s.named_transmit i v
  have hfree : ∀ l p, s.named l p i = false := fun l p => Slot.names_eq_false hi p l
  have hl := h.line v.line
  refine h.of_line v.line h.linesWf (fun _ _ => rfl) (fun _ _ => Iff.rfl) (fun _ _ => Iff.rfl) (fun _ _ => Iff.rfl)
    (fun l hne p j => ?_) ?_ h.repairNodup h.postNodup
  · rw [hnamed]
    split
    · next hij => rw [hij, hfree, decide_eq_false]; exact fun hx => hne hx.2.symm
    · rfl
  · exact { hl with
      flight := fun j => by
        refine Iff.trans ?_ (hl.flight j)
        rw [hnamed]
        split
        · next hij => rw [hij, hfree]; simp [hv]
        · rfl
      repairUnique := fun j k hj hk => by
        rw [hnamed] at hj hk
        split at hj
        · split at hk
          · next hji hki => rw [hji, hki]
          · rw [hnone] at hk; cases hk
        · rw [hnone] at hj; cases hj
      repairListed := fun _ _ => hlisted }

/-- A free slot is taken for a line's post, which it carries from now on (R61, R66). -/
theorem transmitPost {i : SlotNo} (hi : (s.slot i).use = none) {line : Nat} {v : SlotUse} (hv : v.purpose = .update)
    (hvline : v.line = line) {post : Post} (hpost : (s.lineRec line).pending = .posted post) {f : Flight} (hf : f.slot = i) :
    (((s.transmit i v).setRec line { s.lineRec line with pending := .inflight f }).unpost line).Tracked := by
  have hnamed := s.named_transmit i v
  have hfree : ∀ l p, s.named l p i = false := fun l p => Slot.names_eq_false hi p l
  have hl := h.line line
  have hnone : ∀ j, s.named line .update j = false := fun j => by
    rw [Bool.eq_false_iff, ne_eq, hl.flight j, hpost]
    exact nofun
  have hrec := State.lineRec_setRec_same (s.transmit i v) line { s.lineRec line with pending := .inflight f }
  have hline : ({ s.lineRec line with pending := .inflight f } : LineRecord).Tracked s.applyQueue s.repairList
      (s.postList.filter (· != line)) ((s.transmit i v).named line) line :=
    { hl with
      posted := by simp [Pending.post]
      flight := fun j => by
        rw [hnamed]
        change _ ↔ some f.slot = some j
        rw [hf, Option.some_inj]
        split
        · next hij => simp [hij, hv, hvline]
        · next hij =>
          rw [hnone]
          exact ⟨nofun, fun he => absurd he.symm hij⟩
      repairUnique := fun j k => by
        rw [hnamed, hnamed]
        simp only [hv]
        split
        · nofun
        · split
          · nofun
          · exact hl.repairUnique j k
      repairListed := fun j => by
        rw [hnamed]
        simp only [hv]
        split
        · nofun
        · exact hl.repairListed j }
  refine h.of_line line (h.linesWf.set _ _ _) (fun l hne => State.lineRec_setRec_other (s.transmit i v) _ hne)
    (fun _ _ => Iff.rfl) (fun _ _ => Iff.rfl) (fun l hne => ?_) (fun l hne p j => ?_) (hrec.symm ▸ hline) h.repairNodup
    (h.postNodup.filter _)
  · simp [State.unpost, hne]
  · change (s.transmit i v).named l p j = _
    rw [hnamed]
    split
    · next hij => rw [hij, hfree, decide_eq_false]; exact fun hx => hne (hx.2.symm.trans hvline)
    · rfl

/-- A slot is freed and its line's pending state moved: the flight that the slot carried ends, and the Post List follows. -/
theorem freeMoving {i : SlotNo} {u : SlotUse} (hu : (s.slot i).use = some u) {t : State} {p : Pending}
    (hwf : Sparse.Wf LineRecord.reset t.lines) (hslots : t.slots = (s.freeSlot i).slots)
    (hqueue : t.applyQueue = s.applyQueue) (hrepairs : t.repairList = s.repairList)
    (hother : ∀ l, l ≠ u.line → t.lineRec l = s.lineRec l)
    (hline : t.lineRec u.line = { s.lineRec u.line with pending := p })
    (hposts : ∀ l, l ≠ u.line → (l ∈ t.postList ↔ l ∈ s.postList)) (hnodup : t.postList.Nodup)
    (hposted : u.line ∈ t.postList ↔ p.post.isSome = true)
    (hflight : p.flight.map Flight.slot = ((s.lineRec u.line).pending.flight.map Flight.slot).filter (· ≠ i)) :
    t.Tracked := by
  have hl := h.line u.line
  have hnamed : ∀ l q j, t.named l q j = if j = i then false else s.named l q j := fun l q j => by
    rw [State.named, slots_eq_of_slot hslots]
    exact s.names_freeSlot i j q l
  refine h.of_line u.line hwf hother (fun _ _ => by rw [hqueue]) (fun _ _ => by rw [hrepairs]) hposts
    (fun l hne q j => ?_) ?_ (hrepairs ▸ h.repairNodup) hnodup
  · rw [hnamed]
    split
    · next hji => rw [hji]; exact (Slot.not_names_of_line hu hne q).symm
    · rfl
  · rw [hline, hqueue, hrepairs]
    exact { hl with
      posted := hposted
      flight := fun j => by
        rw [hnamed, hflight, Option.filter_eq_some_iff, ← hl.flight j]
        by_cases hji : j = i <;> simp [hji]
      repairUnique := fun j k hj hk => by
        rw [hnamed] at hj hk
        split at hj
        · cases hj
        · split at hk
          · cases hk
          · exact hl.repairUnique j k hj hk
      repairListed := fun j hj => by
        rw [hnamed] at hj
        split at hj
        · cases hj
        · exact hl.repairListed j hj }

/-- A slot is freed and the flight that it carried ends (R71, R82 to R86). -/
theorem freeFlight {i : SlotNo} {u : SlotUse} (hu : (s.slot i).use = some u) (mustFull : Bool) :
    ((s.freeSlot i).endFlight i u.line mustFull).Tracked := by
  refine h.freeMoving hu (p := (s.lineRec u.line).pending.ended i mustFull) (State.wf_endFlight (s := s.freeSlot i) h.linesWf i _ _) (by simp)
    (by simp) (by simp) (fun l hne => ?_) ((s.freeSlot i).lineRec_endFlight i u.line mustFull) (by simp)
    (by rw [State.endFlight_postList]; exact h.postNodup) ?_ (Pending.flight_ended i mustFull _)
  · rw [State.lineRec_endFlight_other _ _ _ hne]; rfl
  · rw [State.endFlight_postList, Pending.post_ended]
    exact (h.line u.line).posted

end State.Tracked
end Sys2Proof.Machine

namespace Sys2Proof.Machine

/-! ## The abandonment of a slot -/

/-- A line that no slot carries any more is not in flight, and it has a post if it had one or was put back to be posted
(R95). -/
theorem LineRecord.flight_pendingAbandoned (r : LineRecord) : r.pendingAbandoned.flight = none := by
  unfold LineRecord.pendingAbandoned
  split
  · rfl
  · rfl
  · split <;> rfl
  · rfl

theorem LineRecord.post_pendingAbandoned {r : LineRecord} {i : SlotNo} (hf : r.pending.flight.map Flight.slot = some i) :
    r.pendingAbandoned.post.isSome = true ↔
      r.pending.post.isSome = true ∨ r.pending = .inflight ⟨i, false⟩ ∧ r.content = .valid := by
  obtain ⟨stamp, content, pending, applyPending, watched, listed⟩ := r
  cases pending with
  | idle => cases hf
  | posted p => cases hf
  | inflight f =>
    obtain ⟨slot, superseded⟩ := f
    obtain rfl := Option.some.inj hf
    cases superseded <;> cases content <;> simp [LineRecord.pendingAbandoned, Pending.post]
  | inflightPosted f p => simp [LineRecord.pendingAbandoned, Pending.post]

/-- The move of the line that a slot carries (R95). -/
theorem State.abandonLine_of_flight (s : State) {i : SlotNo} {line : Nat}
    (hf : (s.lineRec line).pending.flight.map Flight.slot = some i) :
    s.abandonLine i line =
      { s.setRec line { s.lineRec line with pending := (s.lineRec line).pendingAbandoned } with
        postList := s.postList ++
          if (s.lineRec line).pending = .inflight ⟨i, false⟩ ∧ (s.lineRec line).content = .valid then [line] else [] } := by
  unfold State.abandonLine
  generalize s.lineRec line = r at hf
  obtain ⟨stamp, content, pending, applyPending, watched, listed⟩ := r
  cases pending with
  | idle => cases hf
  | posted p => cases hf
  | inflight f =>
    obtain ⟨slot, superseded⟩ := f
    obtain rfl := Option.some.inj hf
    cases superseded <;> cases content <;> simp [LineRecord.pendingAbandoned] <;> rfl
  | inflightPosted f p =>
    obtain rfl := Option.some.inj hf
    simp [LineRecord.pendingAbandoned]
    rfl

namespace State.Tracked

variable {s : State} (h : s.Tracked)
include h

/-- The line that an UPDATE slot names is in flight on it (R60). -/
theorem flight_of_slot {i : SlotNo} {u : SlotUse} (hu : (s.slot i).use = some u) (hp : u.purpose = .update) :
    (s.lineRec u.line).pending.flight.map Flight.slot = some i :=
  ((h.line u.line).flight i).1 ((Slot.names_iff hu _ _).2 ⟨hp, rfl⟩)

/-- A REPAIR slot is freed (R94). -/
theorem freeRepair {i : SlotNo} {u : SlotUse} (hu : (s.slot i).use = some u) (hp : u.purpose = .repair) :
    (s.freeSlot i).Tracked := by
  have hl := h.line u.line
  have hnot : (s.lineRec u.line).pending.flight.map Flight.slot ≠ some i := fun hf => by
    have hname := (Slot.names_iff hu _ _).1 ((hl.flight i).2 hf)
    rw [hp] at hname
    cases hname.1
  refine h.freeMoving hu (p := (s.lineRec u.line).pending) h.linesWf rfl rfl rfl (fun _ _ => rfl) rfl (fun _ _ => Iff.rfl)
    h.postNodup hl.posted ?_
  cases hf : (s.lineRec u.line).pending.flight.map Flight.slot with
  | none => rfl
  | some j =>
    rw [hf] at hnot
    simp only [Option.filter_some, decide_eq_true_eq]
    rw [if_pos fun hji => hnot (by rw [hji])]

omit h in
theorem named_freeSlot (s : State) (i : SlotNo) (l : Nat) (p : Purpose) (j : SlotNo) :
    (s.freeSlot i).named l p j = if j = i then false else s.named l p j := s.names_freeSlot i j p l

/-- A repair is given up: its slot is freed and its line leaves the Repair List (R90, R92). -/
theorem giveUpRepair {i : SlotNo} {u : SlotUse} (hu : (s.slot i).use = some u) (hp : u.purpose = .repair) :
    ((s.freeSlot i).unlistLine u.line).Tracked := by
  refine (h.freeRepair hu hp).unlistLine fun j => ?_
  rw [named_freeSlot]
  split
  · rfl
  · next hji =>
    rw [Bool.eq_false_iff]
    exact fun hj => hji ((h.line u.line).repairUnique j i hj ((Slot.names_iff hu _ _).2 ⟨hp, rfl⟩))

/-- The slots that ask for a line's repair are freed (R41, R116). -/
theorem freeRepairSlot (line : Nat) : (s.freeRepairSlot line).Tracked := by
  have hnamed : ∀ l p i, (s.freeRepairSlot line).named l p i =
      if s.named line .repair i = true then false else s.named l p i :=
    fun l p i => s.names_freeRepairSlot line i p l
  have hrepair : ∀ l p i, s.named line .repair i = true → s.named l p i = true → l = line ∧ p = .repair := by
    intro l p i hi hl
    unfold State.named at hi hl
    cases hu : (s.slot i).use with
    | none => rw [Slot.names_eq_false hu] at hi; cases hi
    | some u =>
      obtain ⟨hp, hline⟩ := (Slot.names_iff hu _ _).1 hi
      obtain ⟨hp', hline'⟩ := (Slot.names_iff hu _ _).1 hl
      exact ⟨hline'.symm.trans hline, hp'.symm.trans hp⟩
  have hl := h.line line
  refine h.of_line line h.linesWf (fun _ _ => rfl) (fun _ _ => Iff.rfl) (fun _ _ => Iff.rfl) (fun _ _ => Iff.rfl)
    (fun l hne p i => ?_) ?_ h.repairNodup h.postNodup
  · rw [hnamed]
    split
    · next hi =>
      rw [eq_comm, Bool.eq_false_iff]
      exact fun hl => hne (hrepair l p i hi hl).1
    · rfl
  · exact { hl with
      flight := fun i => by
        refine Iff.trans ?_ (hl.flight i)
        rw [hnamed]
        split
        · next hi => exact ⟨nofun, fun hu => nomatch (hrepair line .update i hi hu).2⟩
        · rfl
      repairUnique := fun i j hi _ => by rw [hnamed] at hi; split at hi <;> trivial
      repairListed := fun i hi => by rw [hnamed] at hi; split at hi <;> trivial }

theorem abandonSlot (i : SlotNo) : (s.abandonSlot i).Tracked := by
  unfold State.abandonSlot
  split
  · exact h
  · next u hu =>
    split
    · next hp =>
      have hl := h.line u.line
      have hf := h.flight_of_slot hu hp
      have habandon : (s.freeSlot i).abandonLine i u.line =
          { (s.freeSlot i).setRec u.line { s.lineRec u.line with pending := (s.lineRec u.line).pendingAbandoned } with
            postList := s.postList ++ if (s.lineRec u.line).pending = .inflight ⟨i, false⟩
              ∧ (s.lineRec u.line).content = .valid then [u.line] else [] } :=
        (s.freeSlot i).abandonLine_of_flight hf
      have hrec := State.lineRec_setRec_same (s.freeSlot i) u.line
        { s.lineRec u.line with pending := (s.lineRec u.line).pendingAbandoned }
      rw [habandon]
      refine h.freeMoving hu (h.linesWf.set _ _ _) rfl rfl rfl (fun l hne => State.lineRec_setRec_other (s.freeSlot i) _ hne)
        hrec (fun l hne => ?_) ?_ ?_ ?_
      · split <;> simp [hne]
      · split
        · next hkeep =>
          refine List.nodup_append.2 ⟨h.postNodup, by simp, fun a ha b hb => ?_⟩
          rw [List.mem_singleton.1 hb]
          rintro rfl
          rw [hl.posted, hkeep.1] at ha
          cases ha
        · simpa using h.postNodup
      · rw [LineRecord.post_pendingAbandoned hf, List.mem_append, hl.posted]
        refine or_congr_right ?_
        split <;> simp_all
      · rw [LineRecord.flight_pendingAbandoned, hf]
        simp [Option.filter_some]
    · next hp => exact h.freeRepair hu hp

theorem abandonSlots : s.abandonSlots.Tracked :=
  List.foldlRecOn allSlots State.abandonSlot h fun _ ht i _ => ht.abandonSlot i

/-! ### Notices, accesses, check failures -/

theorem give (n : Notice) : (s.give n).Tracked := h.of_holdings rfl

theorem complete (ok : Bool) (ld : Option Word) : (s.complete ok ld).Tracked := h.of_holdings rfl

theorem drainTest : s.drainTest.Tracked := h.of_holdings s.holdings_drainTest

theorem writeLine (line : Nat) (bytes : List Byte) : (s.writeLine line bytes).Tracked := { h with }

theorem strike (line : Nat) (u : Option Upset) : (s.strike line u).Tracked := by
  cases u with
  | none => exact h
  | some u => exact { h with }

theorem loseWaitingPost (line : Nat) : (s.loseWaitingPost line).Tracked := by
  have hc := (h.line line).listedUntrusted
  unfold State.loseWaitingPost
  dsimp only
  split
  · next p hp => exact (h.endPost (line := line) (r := { s.lineRec line with stamp := p.base, pending := .idle }) rfl rfl hc
      rfl (by rw [hp]; rfl)).give _
  · next f p hp => exact (h.endPost (line := line) (r := { s.lineRec line with stamp := p.base, pending := .inflight f })
      rfl rfl hc rfl (by rw [hp]; rfl)).give _
  all_goals exact h

theorem checkFailure (line : Nat) : (s.checkFailure line).Tracked := by
  have ht := h.loseWaitingPost line
  have hr := (ht.line line).move (r' := { (s.loseWaitingPost line).lineRec line with content := .suspect }) rfl rfl
    (fun _ hc => nomatch hc) rfl rfl
  exact (ht.setRec hr).listLine (by simp)

/-! ### The Apply Unit -/

/-- The head entry leaves the queue with its mark (R35). -/
theorem popApply {e : ApplyEntry} {rest : List ApplyEntry} (hq : s.applyQueue = e :: rest) :
    (s.popApply e rest).Tracked := by
  have hl := h.line e.line
  refine h.of_line e.line (h.linesWf.set _ _ _) (fun l hne => ?_) (fun x hx => ?_) (fun _ _ => Iff.rfl)
    (fun _ _ => Iff.rfl) (fun _ _ _ _ => rfl) ?_ h.repairNodup h.postNodup
  · rw [State.lineRec_popApply, if_neg hne]
  · have hne : x ≠ e := fun heq => hx (by rw [heq])
    show x ∈ rest ↔ _
    simp [hq, hne]
  · rw [State.lineRec_popApply, if_pos rfl]
    exact { hl with applyMark := rfl }

theorem giveApplied (e : ApplyEntry) : (s.giveApplied e).Tracked := h.of_holdings (s.holdings_giveApplied e)

omit h in
theorem named_turnValid (s : State) (e : ApplyEntry) (rest : List ApplyEntry) (l : Nat) (p : Purpose) (i : SlotNo) :
    (s.turnValid e rest).named l p i = if s.named e.line .repair i = true then false else s.named l p i := by
  have hslots : (s.turnValid e rest).slots = (s.freeRepairSlot e.line).slots := rfl
  rw [State.named, slots_eq_of_slot hslots]
  exact s.names_freeRepairSlot e.line i p l

/-- A FULL at the current stamp turns its line VALID and ends its repair (R41, R116). -/
theorem turnValid {e : ApplyEntry} {rest : List ApplyEntry} (hq : s.applyQueue = e :: rest) :
    (s.turnValid e rest).Tracked := by
  have hs := h.freeRepairSlot e.line
  have hl := hs.line e.line
  have hfreed : ∀ l p i, (s.turnValid e rest).named l p i = (s.freeRepairSlot e.line).named l p i := fun l p i =>
    (named_turnValid s e rest l p i).trans (s.names_freeRepairSlot e.line i p l).symm
  refine hs.of_line e.line (s.wf_turnValid e rest h.linesWf) (fun l hne => ?_) (fun x hx => ?_) (fun x hx => ?_)
    (fun l _ => ?_) (fun l _ p i => hfreed l p i) ?_ ?_ ?_
  · rw [State.lineRec_turnValid, if_neg hne]; rfl
  · have hne : x ≠ e := fun heq => hx (by rw [heq])
    simp [hq, hne]
  · rw [State.turnValid_repairList, List.mem_filter, bne_iff_ne]
    exact and_iff_left hx
  · rw [State.turnValid_postList]; rfl
  · rw [State.lineRec_turnValid, if_pos rfl, State.turnValid_applyQueue, State.turnValid_repairList,
      State.turnValid_postList]
    exact {
      applyMark := rfl
      listedMark := by simp
      listedUntrusted := fun hlisted => nomatch hlisted
      posted := hl.posted
      flight := fun i => by rw [hfreed]; exact hl.flight i
      repairUnique := fun i j => by rw [hfreed, hfreed]; exact hl.repairUnique i j
      repairListed := fun i hi => by rw [named_turnValid] at hi; split at hi <;> trivial }
  · rw [State.turnValid_repairList]
    exact h.repairNodup.sublist (List.filter_sublist.map _)
  · rw [State.turnValid_postList]
    exact h.postNodup

theorem applyFullEntry {e : ApplyEntry} {rest : List ApplyEntry} (hq : s.applyQueue = e :: rest) :
    (s.applyFullEntry e rest).Tracked := by
  have hw := h.writeLine e.line (Mask.merge Mask.all 0 (s.lineBytes e.line) e.data)
  unfold State.applyFullEntry
  generalize ht : s.writeLine e.line (Mask.merge Mask.all 0 (s.lineBytes e.line) e.data) = t at hw ⊢
  have hqt : t.applyQueue = e :: rest := by rw [← ht]; exact hq
  dsimp only
  split
  · split
    · next hv =>
      have hsame : ({ t.lineRec e.line with content := .valid } : LineRecord) = t.lineRec e.line := by rw [← hv]
      rw [hsame]
      exact ((hw.setRec (hw.line e.line)).popApply hqt).giveApplied e
    · exact (hw.turnValid hqt).giveApplied e
  · exact (hw.popApply hqt).giveApplied e

theorem applyDeltaEntry {e : ApplyEntry} {rest : List ApplyEntry} (hq : s.applyQueue = e :: rest) (u : Option Upset) :
    (s.applyDeltaEntry e rest u).Tracked := by
  have hs := h.strike e.line u
  have hqs : (s.strike e.line u).applyQueue = e :: rest := by simp [hq]
  unfold State.applyDeltaEntry
  generalize s.strike e.line u = t at hs hqs ⊢
  dsimp only
  split
  · exact h.popApply hq
  · split
    · exact ((hs.checkFailure e.line).popApply (by simp [hqs])).drainTest
    · exact ((hs.writeLine e.line _).popApply (e := e) (rest := rest) hqs).giveApplied e

/-! ### Changes of station state -/

theorem enterIsolated (detail : RingDownDetail) : (s.enterIsolated detail).Tracked := by
  have ha := h.abandonSlots
  rw [enterIsolated_eq]
  unfold State.isolated
  apply drainTest
  have hframe := s.abandonSlots_frame
  generalize s.abandonSlots = t at ha hframe
  have hqueue : t.applyQueue = s.applyQueue := by rw [hframe]
  have hrepairs : t.repairList = s.repairList := by rw [hframe]
  exact ha.of_same rfl hqueue.symm hrepairs.symm rfl fun _ _ _ => rfl

theorem depart (target : StationState) : (s.depart target).Tracked := by
  have ha := h.abandonSlots
  have hfree := s.abandonSlots_use
  rw [depart_eq]
  unfold State.departed
  have hframe := s.abandonSlots_frame
  generalize s.abandonSlots = t at ha hfree hframe
  have hqueue : t.applyQueue = s.applyQueue := by rw [hframe]
  exact (ha.unlistAll hfree).of_same rfl hqueue.symm rfl rfl fun _ _ _ => rfl

theorem enterFault : s.enterFault.Tracked := by
  have hd := h.depart .fault
  unfold State.enterFault
  generalize s.depart .fault = t at hd
  exact (hd.give _).of_holdings (State.holdings_endDrain _)

theorem loseProbe : s.loseProbe.Tracked := by
  have ht : { s with probe := { s.probe with outstanding := none, losses := min 3 (s.probe.losses + 1) } }.Tracked :=
    h.of_holdings rfl
  unfold State.loseProbe
  dsimp only
  split
  · exact ht.enterIsolated .probes
  · exact ht

/-! ### Own insertions and returns -/

theorem reportSlot (i : SlotNo) (generation : BitVec 4) : (s.reportSlot i generation).Tracked := by
  unfold State.reportSlot
  dsimp only
  split
  · exact h
  · next u hu =>
    split
    · exact h.rewriteSlot (v := { u with deadline := some (s.now + s.config.returnLimit.toNat) }) hu rfl rfl _
    · exact h

theorem reportInsertion (f : List Byte) : (s.reportInsertion f).Tracked := by
  unfold State.reportInsertion
  split
  · exact h.of_holdings (s.holdings_reportProbe _)
  · split
    · exact h
    · exact h.reportSlot _ _
  · split
    · exact h
    · exact h.reportSlot _ _
  · exact h.reportSlot _ _
  · exact h

/-- The line of an UPDATE slot has a flight, which the slot carries (R60). -/
theorem flight_ne_none {i : SlotNo} {u : SlotUse} (hu : (s.slot i).use = some u) (hp : u.purpose = .update) :
    (s.lineRec u.line).pending.flight ≠ none := by
  intro hnone
  have := h.flight_of_slot hu hp
  rw [hnone] at this
  cases this

theorem updateReturn {i : SlotNo} {u : SlotUse} (hu : (s.slot i).use = some u) (hp : u.purpose = .update)
    (missed : Bool) : (s.updateReturn i u missed).Tracked := by
  have hfree := h.freeFlight hu
  have hflight := h.flight_ne_none hu hp
  have hconfirm : ∀ r : LineRecord,
      (if r.watched then ((s.freeSlot i).endFlight i u.line false).give (.confirmed u.line)
        else (s.freeSlot i).endFlight i u.line false).Tracked := by
    intro r
    split
    · exact (hfree false).give _
    · exact hfree false
  unfold State.updateReturn
  dsimp only
  split
  · split
    · exact (hfree false).drainTest
    · split
      · exact (hconfirm _).drainTest
      · split
        · exact (hfree false).drainTest
        · split
          · exact h.makeDue hu _ _
          · exact ((hfree false).give _).drainTest
  · split
    · exact (hfree false).drainTest
    · split
      · exact (hconfirm _).drainTest
      · exact (hfree true).drainTest
  · next hpend => exact absurd (by rw [hpend]; rfl) hflight
  · next hpend => exact absurd (by rw [hpend]; rfl) hflight

theorem updateDeadline {i : SlotNo} {u : SlotUse} (hu : (s.slot i).use = some u) (hp : u.purpose = .update) :
    (s.updateDeadline i u).Tracked := by
  have hfree := h.freeFlight hu false
  have hflight := h.flight_ne_none hu hp
  unfold State.updateDeadline
  dsimp only
  split
  · split
    · exact hfree.drainTest
    · split
      · exact h.makeDue hu _ _
      · exact (hfree.give _).drainTest
  · split
    · exact hfree.drainTest
    · exact h.makeDue hu _ _
  · next hpend => exact absurd (by rw [hpend]; rfl) hflight
  · next hpend => exact absurd (by rw [hpend]; rfl) hflight

theorem repairUnanswered {i : SlotNo} {u : SlotUse} (hu : (s.slot i).use = some u) (hp : u.purpose = .repair) :
    (s.repairUnanswered i u).Tracked := by
  unfold State.repairUnanswered
  split
  · exact h.makeDue hu _ _
  · exact (h.giveUpRepair hu hp).give _


end State.Tracked
end Sys2Proof.Machine

namespace Sys2Proof.Machine
namespace State.Tracked

variable {s : State} (h : s.Tracked)
include h

/-! ### Frames that come home -/

theorem returnFrame (f : List Byte) (p : Purpose) : (s.returnFrame f p).Tracked := by
  unfold State.returnFrame
  dsimp only
  split
  · exact h
  · next u hu =>
    split
    · next hawaits =>
      obtain ⟨hp, -, -⟩ := (Slot.awaits_iff hu p _).1 hawaits
      split
      · exact h.updateReturn hu hp _
      · split
        · exact h
        · exact h.repairUnanswered hu hp
    · exact h

theorem strip (f : List Byte) : (s.strip f).Tracked := by
  unfold State.strip
  split
  · unfold State.stripProbe
    split
    · exact h.enterFault
    · split
      · exact h.of_holdings (s.holdings_probeReturns _)
      · exact h
  · split
    · exact h
    · exact h.returnFrame f _
  · split
    · exact h
    · exact h.returnFrame f _
  · exact h.returnFrame f _
  · exact h

/-! ### The decisions on a peer's frame -/

omit h in
/-- A raise leaves the flight on its slot (R43, R44). -/
theorem flight_supersededPending (p : Pending) :
    (supersededPending p).1.flight.map Flight.slot = p.flight.map Flight.slot := by
  cases p <;> rfl

/-- A raise keeps the invariant where a listed line does not turn VALID by it (R29 to R31, R42 to R44). -/
theorem raiseRec (u : Update) {content : Content} (hc : (s.lineRec u.line).listed = true → content ≠ .valid) :
    (s.raiseRec u content).Tracked :=
  h.endPost (line := u.line)
    (r := { s.lineRec u.line with
      stamp := u.stamp, content, pending := (supersededPending (s.lineRec u.line).pending).1 })
    rfl rfl hc (supersededPending_spec (s.lineRec u.line).pending).1 (flight_supersededPending _)

/-- An entry joins the queue with its line's mark (R34, R35). -/
theorem queueApply (u : Update) (cause : ApplyCause) : (s.queueApply u cause).Tracked := by
  have hl := h.line u.line
  have hrec : (s.queueApply u cause).lineRec u.line = { s.lineRec u.line with applyPending := true } :=
    State.lineRec_setRec_same s u.line _
  refine h.of_line u.line (h.linesWf.set _ _ _) (fun l hne => State.lineRec_setRec_other s _ hne) (fun e he => ?_)
    (fun _ _ => Iff.rfl) (fun _ _ => Iff.rfl) (fun _ _ _ _ => rfl) ?_ h.repairNodup h.postNodup
  · change e ∈ s.applyQueue ++ [_] ↔ _
    simp only [List.mem_append, List.mem_singleton, or_iff_left_iff_imp]
    rintro rfl
    exact absurd rfl he
  · rw [hrec]
    exact { hl with applyMark := by simp [State.queueApply] }

theorem raiseAndQueue (u : Update) : (s.raiseAndQueue u).Tracked := by
  have hqueued := (h.raiseRec u (h.line u.line).listedUntrusted).queueApply u .raise
  unfold State.raiseAndQueue
  dsimp only
  apply drainTest
  split
  · exact hqueued.give _
  · exact hqueued

theorem raiseStale (u : Update) : (s.raiseStale u).Tracked := by
  have hrec : ((s.raiseRec u .stale).lineRec u.line).content = .stale :=
    congrArg LineRecord.content (State.lineRec_setRec_same s u.line _)
  have ht := (h.raiseRec u (content := .stale) fun _ => by simp).listLine (line := u.line) (by rw [hrec]; simp)
  unfold State.raiseStale
  dsimp only
  apply drainTest
  split
  · exact ht.of_holdings (State.holdings_giveBoth _ _ _)
  · exact ht.give _
  · exact ht.give _
  · exact ht

theorem decideUpdate (u : Update) : (s.decideUpdate u).1.Tracked := by
  have hd := s.decideUpdate_decided u
  generalize (s.decideUpdate u).1 = t at hd ⊢
  cases hd with
  | raised => exact h.raiseAndQueue u
  | stale => exact h.raiseStale u
  | heal => exact h.queueApply u .heal
  | unchanged => exact h

theorem act (f : List Byte) : (s.act f).1.Tracked := by
  unfold State.act
  dsimp only
  split
  · split
    · exact h.decideUpdate _
    · exact h
  · split
    · exact h.decideUpdate _
    · exact h
  · split
    · unfold State.decideRequest
      split
      · dsimp only
        split
        · exact h
        · exact { h with }
      · exact h
    · exact h
  · exact h
  · exact h

theorem routeFrame (f : List Byte) (sent : Nat) : (s.routeFrame f sent).Tracked := by
  unfold State.routeFrame
  split
  · exact h
  · split
    · exact h.strip f
    · split
      · exact h
      · exact (h.act f).of_holdings (State.holdings_enterFifo _ _ _)

/-! ### The Framer's builds -/

theorem setBuild (b : Option Build) : ({ s with build := b } : State).Tracked := { h with }

theorem abandonBuild : s.abandonBuild.Tracked := { h with }

theorem handOver (f : List Byte) : (s.handOver f).Tracked := { h with }

theorem endSweepStep : s.endSweepStep.Tracked := { h with }

theorem buildProbe : s.buildProbe.Tracked := by
  have hkeep : ∀ {t : State} (p : ProbeRecord) (f : List Byte), t.Tracked →
      ({ t with probe := p }.handOver f).Tracked :=
    fun _ f ht => { ht.handOver f with }
  unfold State.buildProbe
  dsimp only
  split
  · exact hkeep _ _ h.loseProbe
  · exact hkeep _ _ h
  · exact hkeep _ _ h

theorem serveDue (i : SlotNo) : (s.serveDue i).Tracked := by
  unfold State.serveDue
  split
  · exact h
  · next u hu =>
    split
    · unfold State.buildRetry State.buildRequest
      dsimp only
      refine State.Tracked.handOver (h.transmit hu ?_ ?_) _
      · rfl
      · rfl
    · exact h.setBuild _
    · exact h.setBuild _
    · exact h.setBuild _
    · exact h

theorem serveSweep : s.serveSweep.Tracked := by
  unfold State.serveSweep
  split
  · exact h.setBuild _
  · next hcase => exact (h.listLine (State.untrusted_of_listing hcase)).endSweepStep
  · exact h.endSweepStep

/-- A first REQUEST takes a free slot for a listed line that no slot asks for (R59, R61). -/
theorem buildFirstRequest {i : SlotNo} {line : Nat} (hline : s.repairLine = some line) (hi : s.lowestFree = some i) :
    (s.buildFirstRequest i line).Tracked := by
  obtain ⟨e, he, rfl⟩ := Option.map_eq_some_iff.1 hline
  have hfound := List.find?_some he
  have hmem := List.mem_of_find?_eq_some he
  simp only [Bool.and_eq_true, Bool.not_eq_true', State.hasRepairSlot, List.any_eq_false] at hfound
  have hlisted : (s.lineRec e.line).listed = true := by
    rw [(h.line e.line).listedMark, List.any_eq_true]
    exact ⟨e, hmem, beq_self_eq_true _⟩
  exact (h.transmitRepair (v := ⟨.repair, e.line, (s.lineRec e.line).stamp, 0, none, none⟩)
    (State.lowestFree_eq_some.1 hi).1 rfl hlisted
    fun j => Bool.eq_false_iff.2 (hfound.2 j (mem_allSlots j))).handOver _

theorem choose : s.choose.Tracked := by
  unfold State.choose
  split
  · exact h.buildProbe
  · split
    · exact h
    · split
      · exact h.serveDue _
      · split
        · exact h.setBuild _
        · split
          · next line i hline hi => exact h.buildFirstRequest hline hi
          · split
            · exact h.setBuild _
            · split
              · exact h.serveSweep
              · exact h

theorem buildPost (line : Nat) : (s.buildPost line).Tracked := by
  unfold State.buildPost
  dsimp only
  split
  · exact (h.checkFailure line).abandonBuild.drainTest
  · split
    · next p i hp hi =>
      have hfree : s.lowestFree = some i := by
        unfold State.updateSlotFor at hi
        split at hi
        · exact hi
        · cases hi
      have ht := h.transmitPost (State.lowestFree_eq_some.1 hfree).1 (line := line)
        (v := ⟨.update, line, (s.lineRec line).stamp, 0, none, none⟩) rfl rfl hp (f := ⟨i, false⟩) rfl
      exact (ht.handOver _).drainTest
    · exact h.abandonBuild

theorem freeUnfit {i : SlotNo} {u : SlotUse} (hu : (s.slot i).use = some u) : (s.freeUnfit i u.line).Tracked :=
  (h.freeFlight hu _).abandonBuild.drainTest

theorem buildMendResend {i : SlotNo} {u : SlotUse} (hu : (s.slot i).use = some u) :
    (s.buildMendResend i u).Tracked := by
  unfold State.buildMendResend
  dsimp only
  split
  · exact (h.checkFailure u.line).freeUnfit (by rw [State.checkFailure_slot]; exact hu)
  · split
    · exact (h.transmit hu rfl rfl).handOver _
    · exact h.freeUnfit hu

/-- A replacement carries the post of its line on the slot of its flight (R69). -/
theorem buildReplacement {i : SlotNo} {u : SlotUse} (hu : (s.slot i).use = some u) :
    (s.buildReplacement i u).Tracked := by
  unfold State.buildReplacement
  dsimp only
  split
  · exact (h.checkFailure u.line).freeUnfit (by rw [State.checkFailure_slot]; exact hu)
  · split
    · next f p hp =>
      split
      · have ht := h.transmit (v := { u with stamp := (s.lineRec u.line).stamp }) hu rfl rfl
        have hpost := ht.endPost (line := u.line) (r := { s.lineRec u.line with pending := .inflight f }) rfl rfl
          (h.line u.line).listedUntrusted rfl (by
            change some f.slot = (s.lineRec u.line).pending.flight.map Flight.slot
            rw [hp]
            rfl)
        exact (hpost.handOver _).drainTest
      · exact h.freeUnfit hu
    all_goals exact h.freeUnfit hu

theorem buildAnswer (line : Nat) (rest : List Nat) : (s.buildAnswer line rest).Tracked := by
  have ht : { s with answerQueue := rest }.Tracked := { h with }
  unfold State.buildAnswer
  dsimp only
  split
  · exact (ht.checkFailure line).abandonBuild.drainTest
  · split
    · exact ht.handOver _
    · exact ht.abandonBuild

theorem fetchSweep (line : Nat) : (s.fetchSweep line).Tracked := by
  unfold State.fetchSweep
  split
  · exact (h.checkFailure line).abandonBuild.endSweepStep.drainTest
  · split
    · exact (h.handOver _).endSweepStep
    · next hcase => exact (h.listLine (State.untrusted_of_listing hcase)).abandonBuild.endSweepStep
    · exact h.abandonBuild.endSweepStep

/-! ### The replica window -/

theorem refuseWrite (line : Nat) (reason : RefuseReason) : (s.refuseWrite line reason).Tracked :=
  (h.give _).complete false none

theorem readWord (la : BitVec 15) : (s.readWord la).Tracked := by
  unfold State.readWord
  dsimp only
  split
  · exact ((h.checkFailure (lineOf la)).complete _ _).drainTest
  · split
    · exact h.complete _ _
    · exact h.complete _ _

/-- The record and the Post List of a line that takes a write (R51 to R53). -/
theorem takeWrite (line : Nat) (mask : Mask) (stationNumber : Byte) :
    ({ s.setRec line (writtenRec (s.lineRec line) mask stationNumber).1 with
        postList :=
          if (writtenRec (s.lineRec line) mask stationNumber).2 then s.postList ++ [line]
          else s.postList } : State).Tracked := by
  have hl := h.line line
  unfold writtenRec
  dsimp only
  split
  · next hp => exact h.beginPost (by rw [hp]; rfl) _ rfl (by rw [hp]; rfl)
  · next f hp => exact h.beginPost (by rw [hp]; rfl) _ rfl (by rw [hp]; rfl)
  · next p hp =>
    split
    · exact h.setRec (hl.move rfl rfl hl.listedUntrusted rfl rfl)
    · exact h.setPending line (by rw [hp]; rfl) (by rw [hp]; rfl)
  · next f p hp => exact h.setPending line (by rw [hp]; rfl) (by rw [hp]; rfl)

theorem mergeWrite (la : BitVec 15) (be : BitVec 4) (ld : Word) : (s.mergeWrite la be ld).Tracked := by
  have hw := h.writeLine (lineOf la)
    (Mask.merge (enabledMask (wordOf la) be) 0 (s.lineBytes (lineOf la)) (enabledBytes be ld))
  exact (hw.takeWrite (lineOf la) (enabledMask (wordOf la) be) s.config.stationNumber).complete true none

theorem writeWord (la : BitVec 15) (be : BitVec 4) (ld : Word) : (s.writeWord la be ld).Tracked := by
  unfold State.writeWord
  dsimp only
  split
  · split
    · exact h.refuseWrite _ _
    · exact ((h.checkFailure (lineOf la)).refuseWrite _ _).drainTest
  · exact h.mergeWrite la be ld

/-! ### RESET and the clearing pass -/

omit h in
theorem reset : State.reset.Tracked := by
  have hnamed : ∀ l p i, State.reset.named l p i = false := fun l p i => State.not_names_reset i p l
  exact {
    linesWf := ⟨List.Pairwise.nil, fun _ he => absurd he List.not_mem_nil⟩
    line := fun l => {
      applyMark := rfl
      listedMark := rfl
      listedUntrusted := fun hl => nomatch hl
      posted := ⟨fun hl => absurd hl List.not_mem_nil, fun hp => nomatch hp⟩
      flight := fun i => ⟨fun hi => (nomatch (hnamed l .update i).symm.trans hi), fun hf => (nomatch hf)⟩
      repairUnique := fun i j hi => nomatch (hnamed l .repair i).symm.trans hi
      repairListed := fun i hi => nomatch (hnamed l .repair i).symm.trans hi }
    repairNodup := List.nodup_nil
    postNodup := List.nodup_nil }

omit h in
theorem assertReset (s : State) : s.assertReset.Tracked := { reset with }

theorem releaseReset : s.releaseReset.Tracked := by
  unfold State.releaseReset
  split
  · exact { h with }
  · exact h

theorem clearLine : s.clearLine.Tracked := by
  unfold State.clearLine
  split
  · next line _ =>
    have ht := h.writeLine line (List.replicate 32 0)
    have hphase : ∀ {t : State} (p : ResetPhase), t.Tracked → ({ t with phase := p } : State).Tracked :=
      fun _ ht => { ht with }
    dsimp only
    split
    · exact hphase _ ht
    · exact (hphase .ended ht).of_holdings (State.holdings_resumeCleared _)
  all_goals exact h

/-! ### The step -/

/-- The line a granted access has struck, with the hold bound. -/
theorem strikeAndBind (a : Access) (u : Option Upset) : ((s.strike (lineOf a.la) u).bindHold a).Tracked :=
  (h.strike (lineOf a.la) u).of_holdings (State.holdings_bindHold _ a)

theorem answer (code : BitVec 8) (arg : BitVec 16) (result : CommandResult) : (s.answer code arg result).Tracked :=
  h.of_holdings rfl

/-- Every command keeps the invariant. -/
theorem exec_meets (i : Instr) : Result.Meets (exec i s) State.Tracked := by
  by_cases hi : leavesHoldings i = true
  · exact fun t ht => h.of_holdings (exec_leavesHoldings hi s t ht)
  cases i
  case reset => exact Result.meets_next.2 (assertReset s)
  case resetRelease => exact Result.meets_next.2 h.releaseReset
  case clearingPassClaim => exact Result.meets_next.2 h.clearLine
  case readClaimGranted u =>
    exact execReadClaimGranted_meets h u (fun _ _ => h.of_holdings rfl) fun a _ => (h.strikeAndBind a u).readWord a.la
  case writeClaimGranted u =>
    exact execWriteClaimGranted_meets h u (fun _ _ => h.of_holdings rfl)
      fun a be ld _ => (h.strikeAndBind a u).writeWord a.la be ld
  case leave arg =>
    exact execLeave_meets h arg (h.answer _ _ _)
      (((h.depart .offline).of_holdings (State.holdings_endDrain _)).answer _ _ _)
  case watch line => exact execWatch_meets h line (h.answer _ _ _) fun _ => (h.setWatched line.toNat true).answer _ _ _
  case unwatch line =>
    exact execUnwatch_meets h line (h.answer _ _ _) fun _ => (h.setWatched line.toNat false).answer _ _ _
  case query line =>
    have hquery : ∀ q : QueryRecord, ({ s with query := q } : State).Tracked := fun _ => { h with }
    exact execQuery_meets h line (h.answer _ _ _) fun _ => (hquery _).answer _ _ _
  case frameReceivedWhole bytes sent =>
    have ht : { s with receiving := false }.Tracked := h.of_holdings rfl
    exact execFrameReceivedWhole_meets h bytes sent ht (ht.routeFrame bytes sent)
  case carrierLost =>
    have ht : { s with carrier := false, receiving := false }.Tracked := h.of_holdings rfl
    exact execCarrierLost_meets h ht (ht.enterIsolated .carrier)
  case insertionComplete =>
    have ht : { s with sending := .idle, place := none }.Tracked := h.of_holdings rfl
    exact execInsertionComplete_meets h fun f _ => ht.reportInsertion f
  case framerChoice => exact execFramerChoice_meets h h.choose
  case postBuild u => exact execPostBuild_meets h u fun line _ => (h.strike line u).buildPost line
  case mendResendBuild u =>
    exact execMendResendBuild_meets h u h.abandonBuild
      fun i v _ hv => (h.strike v.line u).buildMendResend (by rw [State.strike_slot]; exact hv)
  case replacementBuild u =>
    exact execReplacementBuild_meets h u h.abandonBuild
      fun i v _ hv => (h.strike v.line u).buildReplacement (by rw [State.strike_slot]; exact hv)
  case answerBuild u =>
    exact execAnswerBuild_meets h u h.abandonBuild fun line rest _ _ => (h.strike line u).buildAnswer line rest
  case sweepRefreshFetch u =>
    exact execSweepRefreshFetch_meets h u fun _ => (h.strike s.sweep.pointer u).fetchSweep s.sweep.pointer
  case applyFull =>
    exact execApplyFull_meets h fun e rest hq _ _ =>
      (h.applyFullEntry hq).of_holdings (State.holdings_resumeApplied _)
  case applyDelta u =>
    exact execApplyDelta_meets h u fun e rest hq _ _ =>
      (h.applyDeltaEntry hq u).of_holdings (State.holdings_resumeApplied _)
  case updateDeadline i =>
    refine execUpdateDeadline_meets h i fun u d hu hp _ => ?_
    have ht : (s.reach d).Tracked := h.of_holdings rfl
    exact ht.updateDeadline hu hp
  case repairDeadline i =>
    refine execRepairDeadline_meets h i fun u d hu hp _ => ?_
    have ht : (s.reach d).Tracked := h.of_holdings rfl
    exact ht.repairUnanswered hu hp
  case probeLost =>
    refine execProbeLost_meets h fun d => ?_
    have ht : (s.reach d).Tracked := h.of_holdings rfl
    exact ht.loseProbe
  all_goals exact absurd rfl hi

end State.Tracked

/-! ## With the Framer's quiet outside ONLINE -/

/-- Records, lists and slots agree, and outside ONLINE no choice stands and no slot is in use. -/
structure State.Accounted (s : State) : Prop where
  tracked : s.Tracked
  quiet : s.QuietOutsideOnline

/-- Settles O57: the tick moves the time and the queue of commands alone, and every command keeps each line's record in
agreement with the lists and the slots. -/
theorem stepsKeepRecordsListsAndSlotsAgreed : Obligations.StepsKeepRecordsListsAndSlotsAgreed := by
  unfold Obligations.StepsKeepRecordsListsAndSlotsAgreed
  intro s t h hstep
  obtain ⟨hlists, hslots, hquiet⟩ := h
  have hs : s.Accounted := ⟨s.tracked_iff.2 ⟨hlists, hslots⟩, hquiet⟩
  have ht : t.Accounted :=
    step_meets (fun _ hu => ⟨hu.tracked.of_holdings rfl, hu.quiet.of_same rfl rfl rfl⟩)
      (fun _ _ hu => ⟨hu.tracked.of_holdings rfl, hu.quiet.of_same rfl rfl rfl⟩)
      (fun i _ hu v hv => ⟨hu.tracked.exec_meets i v hv, hu.quiet.exec_meets i v hv⟩) hs t hstep
  obtain ⟨hlists', hslots'⟩ := t.tracked_iff.1 ht.tracked
  exact ⟨hlists', hslots', ht.quiet⟩

end Sys2Proof.Machine

/-! # The station's records and a pending drain

The configuration lock, the probe record, the membership map, the clearing pass and the drain follow the station state (R14,
R15, R113, R150, R151, R159, R171, R194, R195). -/

namespace Sys2Proof.Machine

/-! ## A pending drain -/

/-- A drain that is pending after a step was pending before, and what it waited for it still waits for (R195). -/
def State.DrainFollows (s t : State) : Prop :=
  t.drainPending = true → s.drainPending = true ∧ (s.drained = false → t.drained = false)

namespace State.DrainFollows

theorem trans {s t u : State} (h : DrainFollows s t) (h' : DrainFollows t u) : DrainFollows s u := fun hp =>
  ⟨(h (h' hp).1).1, fun hd => (h' hp).2 ((h (h' hp).1).2 hd)⟩

/-- The drain test ends what it finds done (R195). -/
theorem of_drainTest {s t : State} (h : t.drainPending = s.drainPending) : DrainFollows s t.drainTest := by
  intro hp
  rw [State.drainTest_drainPending, Bool.and_eq_true, Bool.not_eq_true'] at hp
  exact ⟨h.symm.trans hp.1, fun _ => by rw [State.drainTest_drained]; exact hp.2⟩

/-- Posts and UPDATE slots may join. -/
theorem of_kept {s t : State} (h : t.drainPending = s.drainPending) (hposts : s.postList ≠ [] → t.postList ≠ [])
    (hslots : ∀ i, (s.slot i).isFor .update = true → (t.slot i).isFor .update = true) : DrainFollows s t := by
  refine fun hp => ⟨h.symm.trans hp, fun hd => ?_⟩
  by_contra hdone
  rw [Bool.not_eq_false, drained_iff] at hdone
  obtain ⟨hnone, hfree⟩ := hdone
  rw [Bool.eq_false_iff] at hd
  refine hd ((drained_iff s).2 ⟨not_not.1 fun hne => hposts hne hnone, fun i => ?_⟩)
  cases hi : (s.slot i).isFor .update with
  | false => rfl
  | true => exact absurd (hslots i hi) (by rw [hfree i]; nofun)

theorem of_same {s t : State} (h : t.drainPending = s.drainPending) (hposts : t.postList = s.postList)
    (hslots : t.slots = s.slots) : DrainFollows s t :=
  of_kept h (fun hne => by rw [hposts]; exact hne) fun i hi => by rw [slots_eq_of_slot hslots]; exact hi

theorem refl (s : State) : DrainFollows s s := of_same rfl rfl rfl

/-- A slot's record changes for its purpose, or a slot that tracks no update is freed. -/
theorem of_setSlot {s : State} {i : SlotNo} {x : Slot}
    (hx : (s.slot i).isFor .update = true → x.isFor .update = true) : DrainFollows s (s.setSlot i x) :=
  of_kept rfl id fun j hj => by
    by_cases hji : j = i
    · subst hji; rw [slot_setSlot_same]; exact hx hj
    · rw [slot_setSlot_other s x hji]; exact hj

theorem makeDue {s : State} {i : SlotNo} {u : SlotUse} (hu : (s.slot i).use = some u) (kind : TxKind) (n : Nat) :
    DrainFollows s (s.makeDue i u kind n) := by
  have hset : DrainFollows s (s.setSlot i { s.slot i with
      use := some { u with attempts := n, due := some ⟨kind, s.dueCount⟩, deadline := none } }) :=
    of_setSlot fun hi =>
      (Slot.isFor_of_use (u := { u with attempts := n, due := some ⟨kind, s.dueCount⟩, deadline := none }) rfl _).2
        ((Slot.isFor_of_use hu _).1 hi)
  exact hset.trans (of_same rfl rfl rfl)

theorem transmit {s : State} {i : SlotNo} {v : SlotUse}
    (hv : ∀ u, (s.slot i).use = some u → u.purpose = .update → v.purpose = .update) : DrainFollows s (s.transmit i v) :=
  of_setSlot fun hi => by
    refine (Slot.isFor_of_use rfl _).2 ?_
    cases hu : (s.slot i).use with
    | none => simp [Slot.isFor, hu] at hi
    | some u => exact hv u hu ((Slot.isFor_of_use hu _).1 hi)

end State.DrainFollows

/-! ## The invariant -/

/-- What the invariant looks at beside the access in progress. -/
structure Standing where
  station : StationState
  locked : Bool
  config : ConfigRecord
  membership : BitVec 32
  probe : ProbeRecord
  answerQueue : List Nat
  phase : ResetPhase

def State.standing (s : State) : Standing where
  station := s.station
  locked := s.locked
  config := s.config
  membership := s.membership
  probe := s.probe
  answerQueue := s.answerQueue
  phase := s.phase

theorem State.standing_of_besidesLines {s t : State} (h : t.besidesLines = s.besidesLines) : t.standing = s.standing := by
  have hstanding : t.besidesLines.standing = s.besidesLines.standing := by rw [h]
  exact hstanding

theorem State.access_of_besidesLines {s t : State} (h : t.besidesLines = s.besidesLines) : t.access = s.access := by
  have haccess : t.besidesLines.access = s.besidesLines.access := by rw [h]
  exact haccess

theorem State.FramerMoves.standing {s t : State} (h : FramerMoves s t) : t.standing = s.standing := by
  have hstanding : t.besidesLines.standing = s.standing := by rw [h.besides]; rfl
  exact hstanding

theorem State.FramerMoves.access {s t : State} (h : FramerMoves s t) : t.access = s.access := by
  have haccess : t.besidesLines.access = s.access := by rw [h.besides]; rfl
  exact haccess

theorem State.standing_isolated (s : State) (detail : RingDownDetail) :
    (s.isolated detail).standing = { s.standing with station := .isolated } := by
  unfold State.isolated
  generalize s.abandonSlots = t
  rfl

theorem State.access_isolated (s : State) (detail : RingDownDetail) : (s.isolated detail).access = s.access := by
  unfold State.isolated
  generalize s.abandonSlots = t
  rfl

theorem State.standing_depart (s : State) (target : StationState) :
    (s.depart target).standing =
      { s.standing with
        station := target, membership := 0, answerQueue := []
        probe := { s.probe with due := false, outstanding := none, timer := none, losses := 0 } } := by
  rw [depart_eq]
  unfold State.departed
  generalize s.abandonSlots.unlistAll.lines = lines
  generalize s.abandonSlots = t
  rfl

theorem State.access_depart (s : State) (target : StationState) : (s.depart target).access = s.access := by
  rw [depart_eq]
  unfold State.departed
  generalize s.abandonSlots = t
  rfl

/-- The station's records and a pending drain agree with the station state. -/
structure State.Settled (s : State) : Prop where
  locks : s.station ≠ .offline → s.locked = true
  ranges : s.locked = true → s.config.inRange = true
  inactive : s.station.isActive = false →
    s.membership = 0 ∧ s.probe.due = false ∧ s.probe.outstanding = none ∧ s.probe.timer = none ∧ s.probe.losses = 0
  timer : s.station.isActive = true → s.probe.timer.isSome = true
  answers : s.station ≠ .online → s.station ≠ .isolated → s.answerQueue = []
  cleared : s.phase ≠ .ended → s.station = .offline ∧ s.locked = false ∧ s.applyQueue = []
  waits : ∀ a, s.access = some a → a.phase = .clearing → s.clearingShown = true
  drains : s.drainPending = true → s.station.isActive = true ∧ s.drained = false

theorem State.settled_iff (s : State) : s.Settled ↔ s.StationAgrees ∧ s.DrainAgrees := by
  constructor
  · rintro ⟨hlocks, hranges, hinactive, htimer, hanswers, hcleared, hwaits, hdrains⟩
    exact ⟨⟨hlocks, hranges, hinactive, htimer, hanswers, hcleared, hwaits⟩, hdrains⟩
  · rintro ⟨⟨hlocks, hranges, hinactive, htimer, hanswers, hcleared, hwaits⟩, hdrains⟩
    exact ⟨hlocks, hranges, hinactive, htimer, hanswers, hcleared, hwaits, hdrains⟩

namespace State.Settled

/-- The invariant is kept where the station's records stay, nothing is queued to apply before the clearing pass has ended, no
access comes to wait for CLEARING that is not shown, and a pending drain is followed. -/
theorem of_standing {s t : State} (h : s.Settled) (e : t.standing = s.standing)
    (hqueue : s.phase ≠ .ended → t.applyQueue = [])
    (haccess : ∀ a, t.access = some a → a.phase = .clearing → s.clearingShown = true) (hdrain : DrainFollows s t) :
    t.Settled := by
  have hstation : t.station = s.station := congrArg Standing.station e
  have hlocked : t.locked = s.locked := congrArg Standing.locked e
  have hconfig : t.config = s.config := congrArg Standing.config e
  have hmembership : t.membership = s.membership := congrArg Standing.membership e
  have hprobe : t.probe = s.probe := congrArg Standing.probe e
  have hanswers : t.answerQueue = s.answerQueue := congrArg Standing.answerQueue e
  have hphase : t.phase = s.phase := congrArg Standing.phase e
  have hshown : t.clearingShown = s.clearingShown := by simp only [State.clearingShown, hphase]
  exact {
    locks := by rw [hstation, hlocked]; exact h.locks
    ranges := by rw [hlocked, hconfig]; exact h.ranges
    inactive := by rw [hstation, hmembership, hprobe]; exact h.inactive
    timer := by rw [hstation, hprobe]; exact h.timer
    answers := by rw [hstation, hanswers]; exact h.answers
    cleared := fun hne => by
      rw [hphase] at hne
      obtain ⟨hoff, hunlocked, _⟩ := h.cleared hne
      exact ⟨hstation.trans hoff, hlocked.trans hunlocked, hqueue hne⟩
    waits := by rw [hshown]; exact haccess
    drains := fun hp => by
      obtain ⟨hps, hd⟩ := hdrain hp
      obtain ⟨hactive, hundrained⟩ := h.drains hps
      exact ⟨by rw [hstation]; exact hactive, hd hundrained⟩ }

variable {s : State} (h : s.Settled)
include h

theorem queue_of_same {t : State} (e : t.applyQueue = s.applyQueue) : s.phase ≠ .ended → t.applyQueue = [] :=
  fun hne => e.trans (h.cleared hne).2.2

theorem waits_of_same {t : State} (e : t.access = s.access) :
    ∀ a, t.access = some a → a.phase = .clearing → s.clearingShown = true := by
  rw [e]; exact h.waits

omit h in
theorem waits_of_none {t : State} (e : t.access = none) :
    ∀ a, t.access = some a → a.phase = .clearing → s.clearingShown = true := by
  intro a ha
  rw [e] at ha
  cases ha

/-- Lines, lists and slots may move. -/
theorem of_lines {t : State} (e : t.besidesLines = s.besidesLines) (hqueue : s.phase ≠ .ended → t.applyQueue = [])
    (hdrain : DrainFollows s t) : t.Settled :=
  h.of_standing (standing_of_besidesLines e) hqueue (h.waits_of_same (access_of_besidesLines e)) hdrain

/-- All that the invariant looks at stays. -/
theorem of_same {t : State} (e : t.standing = s.standing) (hqueue : t.applyQueue = s.applyQueue)
    (haccess : t.access = s.access) (hpending : t.drainPending = s.drainPending) (hposts : t.postList = s.postList)
    (hslots : t.slots = s.slots) : t.Settled :=
  h.of_standing e (h.queue_of_same hqueue) (h.waits_of_same haccess) (.of_same hpending hposts hslots)

/-- The access completes; all else that the invariant looks at stays. -/
theorem of_complete {t : State} (e : t.standing = s.standing) (hqueue : t.applyQueue = s.applyQueue)
    (haccess : t.access = none) (hpending : t.drainPending = s.drainPending) (hposts : t.postList = s.postList)
    (hslots : t.slots = s.slots) : t.Settled :=
  h.of_standing e (h.queue_of_same hqueue) (waits_of_none haccess) (.of_same hpending hposts hslots)

/-- The pass has ended at an active station (R14, R153). -/
theorem ended_of_active (hactive : s.station.isActive = true) : s.phase = .ended := by
  by_contra hne
  rw [(h.cleared hne).1] at hactive
  cases hactive

omit h in
/-- The pass has ended where the store is open to claims (R13, R17). -/
theorem ended_of_open (hopen : s.storeClosed = false) : s.phase = .ended := by
  cases hp : s.phase with
  | ended => rfl
  | asserted => simp [State.storeClosed, State.clearingShown, State.resetAsserted, hp] at hopen
  | clearing n => simp [State.storeClosed, State.clearingShown, hp] at hopen

omit h in
theorem ended_of_grantsFramer (hg : s.grantsFramer = true) : s.phase = .ended := by
  simp only [State.grantsFramer, Bool.and_eq_true, Bool.not_eq_true'] at hg
  exact ended_of_open hg.1.1.1

/-- The Framer's moves at a station whose pass has ended. -/
theorem of_framerMoves (hended : s.phase = .ended) {t : State} (hm : FramerMoves s t) (hdrain : DrainFollows s t) :
    t.Settled :=
  h.of_standing hm.standing (fun hne => absurd hended hne) (h.waits_of_same hm.access) hdrain

/-! ### Changes of station state -/

theorem enterIsolated (hactive : s.station.isActive = true) (detail : RingDownDetail) :
    (s.enterIsolated detail).Settled := by
  have hended := h.ended_of_active hactive
  have hlocked := h.locks (StationState.ne_offline_of_active hactive)
  have hst := s.standing_isolated detail
  have haccess := s.access_isolated detail
  rw [enterIsolated_eq]
  generalize s.isolated detail = t at hst haccess
  rw [← standing_of_besidesLines t.besidesLines_drainTest] at hst
  rw [← access_of_besidesLines t.besidesLines_drainTest] at haccess
  have hstation : t.drainTest.station = .isolated := congrArg Standing.station hst
  have hphase : t.drainTest.phase = .ended := (congrArg Standing.phase hst).trans hended
  have hprobe : t.drainTest.probe = s.probe := congrArg Standing.probe hst
  have hconfig : t.drainTest.config = s.config := congrArg Standing.config hst
  exact {
    locks := fun _ => (congrArg Standing.locked hst).trans hlocked
    ranges := fun _ => hconfig ▸ h.ranges hlocked
    inactive := fun hi => by rw [hstation] at hi; cases hi
    timer := fun _ => hprobe ▸ h.timer hactive
    answers := fun _ hne => absurd hstation hne
    cleared := fun hne => absurd hphase hne
    waits := fun a ha hw => by
      have hs := h.waits a (haccess ▸ ha) hw
      simp [State.clearingShown, hended] at hs
    drains := fun hp => by
      rw [State.drainTest_drainPending, Bool.and_eq_true, Bool.not_eq_true'] at hp
      exact ⟨by rw [hstation]; rfl, t.drainTest_drained.trans hp.2⟩ }

/-- Departure with its drain ended, whatever notice is given between them (R154, R156, R196). -/
theorem depart (hactive : s.station.isActive = true) {target : StationState} (htarget : target.isActive = false)
    {t : State} (e : t.standing = (s.depart target).standing) (haccess : t.access = s.access)
    (hpending : t.drainPending = false) : t.Settled := by
  have hended := h.ended_of_active hactive
  have hlocked := h.locks (StationState.ne_offline_of_active hactive)
  have hst : t.standing = _ := e.trans (s.standing_depart target)
  have hstation : t.station = target := congrArg Standing.station hst
  have hphase : t.phase = .ended := (congrArg Standing.phase hst).trans hended
  have hconfig : t.config = s.config := congrArg Standing.config hst
  have hprobe : t.probe = { s.probe with due := false, outstanding := none, timer := none, losses := 0 } :=
    congrArg Standing.probe hst
  exact {
    locks := fun _ => (congrArg Standing.locked hst).trans hlocked
    ranges := fun _ => hconfig ▸ h.ranges hlocked
    inactive := fun _ => by
      rw [hprobe]
      exact ⟨congrArg Standing.membership hst, rfl, rfl, rfl, rfl⟩
    timer := fun ha => by rw [hstation, htarget] at ha; cases ha
    answers := fun _ _ => congrArg Standing.answerQueue hst
    cleared := fun hne => absurd hphase hne
    waits := fun a ha hw => by
      have hs := h.waits a (haccess ▸ ha) hw
      simp [State.clearingShown, hended] at hs
    drains := fun hp => by rw [hpending] at hp; cases hp }

end State.Settled

/-! ## What ends a drain -/

namespace State

theorem endDrain_drainPending (s : State) : s.endDrain.drainPending = false := by
  unfold endDrain
  split
  · rfl
  · next h => exact Bool.eq_false_iff.2 h

theorem standing_endDrain (s : State) : s.endDrain.standing = s.standing :=
  standing_of_besidesLines s.besidesLines_endDrain

namespace Settled

variable {s : State} (h : s.Settled)
include h

theorem enterFault (hactive : s.station.isActive = true) : s.enterFault.Settled := by
  refine h.depart hactive (target := .fault) rfl ?_ ?_ (endDrain_drainPending _)
  · unfold State.enterFault
    generalize s.depart .fault = t
    rw [standing_endDrain]
    rfl
  · have haccess := s.access_depart .fault
    unfold State.enterFault
    generalize s.depart .fault = t at haccess
    rw [access_of_besidesLines (besidesLines_endDrain _)]
    exact haccess

theorem leave (hactive : s.station.isActive = true) (arg : BitVec 16) :
    ((s.depart .offline).endDrain.answer 2 arg .accepted).Settled := by
  have hleft : (s.depart .offline).endDrain.Settled := by
    refine h.depart hactive (target := .offline) rfl (standing_endDrain _) ?_ (endDrain_drainPending _)
    rw [access_of_besidesLines (besidesLines_endDrain _)]
    exact s.access_depart .offline
  generalize (s.depart .offline).endDrain = t at hleft
  exact hleft.of_complete rfl rfl rfl rfl rfl rfl

end Settled
end State
end Sys2Proof.Machine

namespace Sys2Proof.Machine

/-! ## The drain through the commands -/

namespace State

theorem giveApplied_frame (s : State) (e : ApplyEntry) :
    s.giveApplied e = { s with notices := (s.giveApplied e).notices } := by
  unfold giveApplied
  dsimp only
  split <;> rfl

theorem updateDeadline_applyQueue (s : State) (i : SlotNo) (u : SlotUse) :
    (s.updateDeadline i u).applyQueue = s.applyQueue := by
  unfold updateDeadline
  dsimp only
  (repeat' split) <;> simp

theorem repairUnanswered_applyQueue (s : State) (i : SlotNo) (u : SlotUse) :
    (s.repairUnanswered i u).applyQueue = s.applyQueue := by
  unfold repairUnanswered
  split <;> rfl

namespace DrainFollows

theorem setRec (s : State) (line : Nat) (r : LineRecord) : DrainFollows s (s.setRec line r) := .of_same rfl rfl rfl

theorem give (s : State) (n : Notice) : DrainFollows s (s.give n) := .of_same rfl rfl rfl

theorem strike (s : State) (line : Nat) (u : Option Upset) : DrainFollows s (s.strike line u) := by
  rw [strike_frame]
  exact .of_same rfl rfl rfl

theorem freeRepairSlot (s : State) (line : Nat) : DrainFollows s (s.freeRepairSlot line) :=
  .of_kept rfl id fun i hi => by
    rw [slot_freeRepairSlot]
    split
    · next hn =>
      cases hu : (s.slot i).use with
      | none => rw [Slot.names_eq_false hu] at hn; cases hn
      | some u =>
        have hp := (Slot.names_iff hu _ _).1 hn
        have hq := (Slot.isFor_of_use hu _).1 hi
        rw [hp.1] at hq
        cases hq
    · exact hi

theorem freeRepair {s : State} {i : SlotNo} {u : SlotUse} (hu : (s.slot i).use = some u) (hp : u.purpose = .repair) :
    DrainFollows s (s.freeSlot i) :=
  .of_setSlot fun hi => by
    rw [(Slot.isFor_of_use hu _).1 hi] at hp
    cases hp

/-! ### The Apply Unit -/

theorem popApply (s : State) (e : ApplyEntry) (rest : List ApplyEntry) : DrainFollows s (s.popApply e rest) :=
  .of_same rfl rfl rfl

theorem endRepair (s : State) (line : Nat) : DrainFollows s (s.endRepair line) := by
  have hunlist : DrainFollows s (s.unlistLine line) := .of_same rfl rfl rfl
  exact hunlist.trans (freeRepairSlot _ _)

theorem giveApplied (s : State) (e : ApplyEntry) : DrainFollows s (s.giveApplied e) := by
  rw [giveApplied_frame]
  exact .of_same rfl rfl rfl

theorem applyFullEntry (s : State) (e : ApplyEntry) (rest : List ApplyEntry) :
    DrainFollows s (s.applyFullEntry e rest) := by
  have hw : DrainFollows s (s.writeLine e.line (Mask.merge Mask.all 0 (s.lineBytes e.line) e.data)) :=
    .of_same rfl rfl rfl
  unfold State.applyFullEntry
  generalize s.writeLine e.line (Mask.merge Mask.all 0 (s.lineBytes e.line) e.data) = t at hw
  dsimp only
  refine (hw.trans ?_).trans (giveApplied _ e)
  split
  · split
    · exact (setRec t _ _).trans (popApply _ e rest)
    · exact ((setRec t _ _).trans (endRepair _ _)).trans (popApply _ e rest)
  · exact popApply t e rest

theorem applyDeltaEntry (s : State) (e : ApplyEntry) (rest : List ApplyEntry) (u : Option Upset) :
    DrainFollows s (s.applyDeltaEntry e rest u) := by
  have hs := strike s e.line u
  unfold State.applyDeltaEntry
  generalize s.strike e.line u = t at hs
  dsimp only
  split
  · exact popApply s e rest
  · split
    · exact hs.trans (.of_drainTest (by simp))
    · refine (hs.trans ?_).trans (giveApplied _ e)
      generalize Mask.merge e.mask 0 (t.lineBytes e.line) e.data = bytes
      have hw : DrainFollows t (t.writeLine e.line bytes) := .of_same rfl rfl rfl
      exact hw.trans (popApply _ e rest)

/-! ### Returns and deadlines -/

theorem updateReturn {s : State} {i : SlotNo} {u : SlotUse} (hu : (s.slot i).use = some u) (missed : Bool) :
    DrainFollows s (s.updateReturn i u missed) := by
  have hconfirm : ∀ r : LineRecord,
      (if r.watched then ((s.freeSlot i).endFlight i u.line false).give (.confirmed u.line)
        else (s.freeSlot i).endFlight i u.line false).drainPending = s.drainPending := by
    intro r
    split <;> simp
  unfold State.updateReturn
  dsimp only
  split
  · split
    · exact .of_drainTest (by simp)
    · split
      · exact .of_drainTest (hconfirm _)
      · split
        · exact .of_drainTest (by simp)
        · split
          · exact makeDue hu _ _
          · exact .of_drainTest (by simp)
  · split
    · exact .of_drainTest (by simp)
    · split
      · exact .of_drainTest (hconfirm _)
      · exact .of_drainTest (by simp)
  · exact .of_drainTest rfl
  · exact .of_drainTest rfl

theorem updateDeadline {s : State} {i : SlotNo} {u : SlotUse} (hu : (s.slot i).use = some u) :
    DrainFollows s (s.updateDeadline i u) := by
  unfold State.updateDeadline
  dsimp only
  split
  · split
    · exact .of_drainTest (by simp)
    · split
      · exact makeDue hu _ _
      · exact .of_drainTest (by simp)
  · split
    · exact .of_drainTest (by simp)
    · exact makeDue hu _ _
  · exact .of_drainTest rfl
  · exact .of_drainTest rfl

theorem repairUnanswered {s : State} {i : SlotNo} {u : SlotUse} (hu : (s.slot i).use = some u)
    (hp : u.purpose = .repair) : DrainFollows s (s.repairUnanswered i u) := by
  unfold State.repairUnanswered
  split
  · exact makeDue hu _ _
  · exact (freeRepair hu hp).trans (.of_same rfl rfl rfl)

theorem returnFrame (s : State) (f : List Byte) (p : Purpose) : DrainFollows s (s.returnFrame f p) := by
  unfold State.returnFrame
  dsimp only
  split
  · exact .refl s
  · next u hu =>
    split
    · next hawaits =>
      obtain ⟨hp, -, -⟩ := (Slot.awaits_iff hu p _).1 hawaits
      split
      · exact updateReturn hu _
      · split
        · exact .refl s
        · exact repairUnanswered hu hp
    · exact .refl s

theorem reportSlot (s : State) (i : SlotNo) (generation : BitVec 4) : DrainFollows s (s.reportSlot i generation) := by
  unfold State.reportSlot
  dsimp only
  split
  · exact .refl s
  · next u hu =>
    split
    · exact .of_setSlot fun hi =>
        (Slot.isFor_of_use (u := { u with deadline := some (s.now + s.config.returnLimit.toNat) }) rfl _).2
          ((Slot.isFor_of_use hu _).1 hi)
    · exact .refl s

/-! ### The decision on an update -/

theorem decideUpdate (s : State) (u : Update) : DrainFollows s (s.decideUpdate u).1 := by
  have hd := s.decideUpdate_decided u
  generalize (s.decideUpdate u).1 = t at hd ⊢
  cases hd with
  | raised =>
    unfold State.raiseAndQueue
    dsimp only
    refine .of_drainTest ?_
    split <;> rfl
  | stale =>
    unfold State.raiseStale
    dsimp only
    refine .of_drainTest ?_
    split <;> simp [State.raiseRec]
  | heal => exact .of_same rfl rfl rfl
  | unchanged => exact .refl s

/-! ### The Framer -/

theorem handOver (s : State) (f : List Byte) : DrainFollows s (s.handOver f) := .of_same rfl rfl rfl

theorem setBuild (s : State) (b : Option Build) : DrainFollows s { s with build := b } := .of_same rfl rfl rfl

theorem abandonBuild (s : State) : DrainFollows s s.abandonBuild := .of_same rfl rfl rfl

theorem endSweepStep (s : State) : DrainFollows s s.endSweepStep := .of_same rfl rfl rfl

theorem listLine (s : State) (line : Nat) : DrainFollows s (s.listLine line) := by
  rw [listLine_frame]
  exact .of_same rfl rfl rfl

theorem serveDue (s : State) (i : SlotNo) : DrainFollows s (s.serveDue i) := by
  unfold State.serveDue
  split
  · exact .refl s
  · next u hu =>
    split
    · unfold State.buildRetry State.buildRequest
      dsimp only
      refine DrainFollows.trans (transmit fun v hv hp => ?_) (handOver _ _)
      obtain rfl := Option.some.inj (hu.symm.trans hv)
      exact hp
    · exact setBuild s _
    · exact setBuild s _
    · exact setBuild s _
    · exact .refl s

theorem serveSweep (s : State) : DrainFollows s s.serveSweep := by
  unfold State.serveSweep
  split
  · exact setBuild s _
  · exact (listLine s _).trans (endSweepStep _)
  · exact endSweepStep s

/-- A choice that serves no probe (R57, R58). -/
theorem choose {s : State} (h : s.probeReady = false) : DrainFollows s s.choose := by
  unfold State.choose
  rw [if_neg (by simp [h])]
  split
  · exact .refl s
  · split
    · exact serveDue s _
    · split
      · exact setBuild s _
      · split
        · next i _ hi =>
          refine (transmit fun u hu _ => ?_).trans (handOver _ _)
          rw [(lowestFree_eq_some.1 hi).1] at hu
          cases hu
        · split
          · exact setBuild s _
          · split
            · exact serveSweep s
            · exact .refl s

theorem buildPost (s : State) (line : Nat) : DrainFollows s (s.buildPost line) := by
  unfold State.buildPost
  dsimp only
  split
  · exact .of_drainTest (by simp)
  · split
    · exact .of_drainTest (by simp)
    · exact abandonBuild s

theorem freeUnfit (s : State) (i : SlotNo) (line : Nat) : DrainFollows s (s.freeUnfit i line) :=
  .of_drainTest (by simp)

theorem checkFailure_freeUnfit (s : State) (i : SlotNo) (line : Nat) :
    DrainFollows s ((s.checkFailure line).freeUnfit i line) := .of_drainTest (by simp)

theorem buildMendResend {s : State} {i : SlotNo} {u : SlotUse} (hu : (s.slot i).use = some u) :
    DrainFollows s (s.buildMendResend i u) := by
  unfold State.buildMendResend
  dsimp only
  split
  · exact checkFailure_freeUnfit s i _
  · split
    · refine (transmit fun v hv hp => ?_).trans (handOver _ _)
      obtain rfl := Option.some.inj (hu.symm.trans hv)
      exact hp
    · exact freeUnfit s i _

theorem buildReplacement (s : State) (i : SlotNo) (u : SlotUse) : DrainFollows s (s.buildReplacement i u) := by
  unfold State.buildReplacement
  dsimp only
  split
  · exact checkFailure_freeUnfit s i _
  · split
    · split
      · exact .of_drainTest (by simp)
      · exact freeUnfit s i _
    all_goals exact freeUnfit s i _

theorem buildAnswer (s : State) (line : Nat) (rest : List Nat) : DrainFollows s (s.buildAnswer line rest) := by
  have ht : DrainFollows s { s with answerQueue := rest } := .of_same rfl rfl rfl
  unfold State.buildAnswer
  dsimp only
  split
  · exact ht.trans (.of_drainTest (by simp))
  · split
    · exact ht.trans (handOver _ _)
    · exact ht.trans (abandonBuild _)

theorem fetchSweep (s : State) (line : Nat) : DrainFollows s (s.fetchSweep line) := by
  unfold State.fetchSweep
  split
  · exact .of_drainTest (by simp)
  · split
    · exact (handOver s _).trans (endSweepStep _)
    · exact ((listLine s line).trans (abandonBuild _)).trans (endSweepStep _)
    · exact (abandonBuild s).trans (endSweepStep _)

/-! ### The replica window -/

theorem strikeAndBind (s : State) (a : Access) (u : Option Upset) :
    DrainFollows s ((s.strike (lineOf a.la) u).bindHold a) := by
  rw [bindHold_eq, strike_frame]
  exact .of_same rfl rfl rfl

theorem readWord (s : State) (la : BitVec 15) : DrainFollows s (s.readWord la) := by
  unfold State.readWord
  dsimp only
  split
  · exact .of_drainTest (by simp [State.fail])
  · split <;> exact .of_same rfl rfl rfl

theorem writeWord (s : State) (la : BitVec 15) (be : BitVec 4) (ld : Word) : DrainFollows s (s.writeWord la be ld) := by
  unfold State.writeWord
  dsimp only
  split
  · split
    · exact .of_same rfl rfl rfl
    · exact .of_drainTest (by simp [State.refuseWrite])
  · unfold State.mergeWrite
    dsimp only
    refine .of_kept rfl (fun hne => ?_) fun i hi => hi
    change (if _ then _ else _) ≠ []
    split
    · simp
    · exact hne

end DrainFollows
end State
end Sys2Proof.Machine

namespace Sys2Proof.Machine

/-! ## The station's records through the commands -/

namespace State

theorem takeAccess_waits (s : State) (a : Access) :
    ∀ b, (s.takeAccess a).access = some b → b.phase = .clearing → s.clearingShown = true := by
  intro b hb hphase
  by_contra hshown
  rw [Bool.not_eq_true] at hshown
  have hadmit : ∀ c, (s.admitAccess a).access = some c → c.phase ≠ .clearing := by
    intro c hc
    unfold admitAccess at hc
    dsimp only at hc
    split at hc
    · split at hc <;> cases hc
    · split at hc
      · cases hc
      · split at hc <;>
        · obtain rfl := Option.some.inj hc
          nofun
  unfold takeAccess at hb
  rw [if_neg (by simp [hshown])] at hb
  split at hb
  · cases hb
  · split at hb
    · split at hb
      · cases hb
      · exact hadmit b hb hphase
    · exact hadmit b hb hphase

theorem standing_takeAccess (s : State) (a : Access) : (s.takeAccess a).standing = s.standing := by
  rw [takeAccess_frame]; rfl

theorem standing_fail (s : State) (kind : AccessKind) : (s.fail kind).standing = s.standing := rfl

theorem standing_refuseWrite (s : State) (line : Nat) (reason : RefuseReason) :
    (s.refuseWrite line reason).standing = s.standing := rfl

theorem access_fail (s : State) (kind : AccessKind) : (s.fail kind).access = none := rfl

theorem access_refuseWrite (s : State) (line : Nat) (reason : RefuseReason) : (s.refuseWrite line reason).access = none := rfl

theorem standing_readWord (s : State) (la : BitVec 15) : (s.readWord la).standing = s.standing := by
  unfold readWord
  dsimp only
  split
  · rw [standing_of_besidesLines (besidesLines_drainTest _), standing_fail]
    exact standing_of_besidesLines (s.besidesLines_checkFailure _)
  · split <;> rfl

theorem access_readWord (s : State) (la : BitVec 15) : (s.readWord la).access = none := by
  unfold readWord
  dsimp only
  split
  · rw [drainTest_access, access_fail]
  · split <;> rfl

theorem standing_writeWord (s : State) (la : BitVec 15) (be : BitVec 4) (ld : Word) :
    (s.writeWord la be ld).standing = s.standing := by
  unfold writeWord
  dsimp only
  split
  · split
    · rfl
    · rw [standing_of_besidesLines (besidesLines_drainTest _), standing_refuseWrite]
      exact standing_of_besidesLines (s.besidesLines_checkFailure _)
  · rfl

theorem access_writeWord (s : State) (la : BitVec 15) (be : BitVec 4) (ld : Word) : (s.writeWord la be ld).access = none := by
  unfold writeWord
  dsimp only
  split
  · split
    · rfl
    · rw [drainTest_access, access_refuseWrite]
  · rfl

theorem standing_strikeAndBind (s : State) (a : Access) (u : Option Upset) :
    ((s.strike (lineOf a.la) u).bindHold a).standing = s.standing := by
  rw [bindHold_eq, strike_frame]
  rfl

theorem standing_enterFifo (s : State) (copy : List Byte) (sent : Nat) : (s.enterFifo copy sent).standing = s.standing := by
  rw [enterFifo_frame]; rfl

end State

/-- The commands that leave the station's records, the lists and the slots, and at most complete the access. -/
def leavesStanding : Instr → Bool
  | .watch _ | .unwatch _ | .query _ | .intenable _ | .unknownCommand _ | .statusRead | .noticeRead | .readOnlyWrite _ _ _
  | .unassignedAccess _ _ | .lholdDeasserted | .holdBreak | .receptionBrokenOff _ | .carrierRegained
  | .outputArbiterChoice | .switchToActive _ | .switchToPassThrough | .sweepTick | .frameInReceptionBegins
  | .passThroughRepeatBegins => true
  | _ => false

/-- What such a command leaves. -/
structure State.LeavesStanding (s t : State) : Prop where
  standing : t.standing = s.standing
  access : t.access = s.access ∨ t.access = none
  applyQueue : t.applyQueue = s.applyQueue
  drainPending : t.drainPending = s.drainPending
  postList : t.postList = s.postList
  slots : t.slots = s.slots

theorem State.LeavesStanding.refl (s : State) : s.LeavesStanding s := ⟨rfl, .inl rfl, rfl, rfl, rfl, rfl⟩

theorem State.leavesStanding_failWaiting (s : State) : s.LeavesStanding s.failWaiting := by
  unfold State.failWaiting
  split
  · split
    · split <;> exact ⟨rfl, .inr rfl, rfl, rfl, rfl, rfl⟩
    · exact .refl s
  · exact .refl s

theorem exec_leavesStanding {i : Instr} (hi : leavesStanding i = true) (s : State) :
    Result.Meets (exec i s) s.LeavesStanding := by
  have hsame : s.LeavesStanding s := .refl s
  cases i
  case watch line =>
    exact execWatch_meets hsame line ⟨rfl, .inr rfl, rfl, rfl, rfl, rfl⟩ fun _ => ⟨rfl, .inr rfl, rfl, rfl, rfl, rfl⟩
  case unwatch line =>
    exact execUnwatch_meets hsame line ⟨rfl, .inr rfl, rfl, rfl, rfl, rfl⟩ fun _ => ⟨rfl, .inr rfl, rfl, rfl, rfl, rfl⟩
  case query line =>
    exact execQuery_meets hsame line ⟨rfl, .inr rfl, rfl, rfl, rfl, rfl⟩ fun _ => ⟨rfl, .inr rfl, rfl, rfl, rfl, rfl⟩
  case intenable =>
    simp only [exec, execIntenable, Result.meets_next]
    split
    · exact hsame
    · exact ⟨rfl, .inr rfl, rfl, rfl, rfl, rfl⟩
  case unknownCommand =>
    simp only [exec, execUnknownCommand, Result.meets_next]
    split
    · exact hsame
    · exact ⟨rfl, .inr rfl, rfl, rfl, rfl, rfl⟩
  case statusRead =>
    simp only [exec, execStatusRead, Result.meets_next]
    split
    · exact hsame
    · exact ⟨rfl, .inr rfl, rfl, rfl, rfl, rfl⟩
  case noticeRead =>
    simp only [exec, execNoticeRead, Result.meets_next]
    split
    · exact hsame
    · exact ⟨rfl, .inr rfl, rfl, rfl, rfl, rfl⟩
  case readOnlyWrite =>
    simp only [exec, execReadOnlyWrite, Result.meets_next]
    split
    · exact ⟨rfl, .inr rfl, rfl, rfl, rfl, rfl⟩
    · exact hsame
  case unassignedAccess =>
    simp only [exec, execUnassignedAccess, Result.meets_next]
    split
    · exact ⟨rfl, .inr rfl, rfl, rfl, rfl, rfl⟩
    · exact hsame
  case holdBreak =>
    simp only [exec, execHoldBreak, Result.meets_next]
    split
    · next line t _ =>
      obtain ⟨hstanding, haccess, hqueue, hpending, hposts, hslots⟩ :=
        State.leavesStanding_failWaiting (({ s.reach t with hold := .broken line } : State).give (.holdBroken line))
      exact ⟨hstanding, haccess, hqueue, hpending, hposts, hslots⟩
    all_goals exact hsame
  case outputArbiterChoice =>
    simp only [exec, execOutputArbiterChoice, State.chooseOutput, State.endForwarded, Result.meets_next]
    (repeat' split) <;> exact ⟨rfl, .inl rfl, rfl, rfl, rfl, rfl⟩
  case switchToPassThrough =>
    simp only [exec, execSwitchToPassThrough, State.endForwarded, Result.meets_next]
    (repeat' split) <;> exact ⟨rfl, .inl rfl, rfl, rfl, rfl, rfl⟩
  case lholdDeasserted =>
    simp only [exec, execLholdDeasserted, Result.meets_next]
    split <;> exact ⟨rfl, .inl rfl, rfl, rfl, rfl, rfl⟩
  case receptionBrokenOff =>
    simp only [exec, execReceptionBrokenOff, Result.meets_next]
    split <;> exact ⟨rfl, .inl rfl, rfl, rfl, rfl, rfl⟩
  case carrierRegained =>
    simp only [exec, execCarrierRegained, Result.meets_next]
    split <;> exact ⟨rfl, .inl rfl, rfl, rfl, rfl, rfl⟩
  case switchToActive =>
    simp only [exec, execSwitchToActive, Result.meets_next]
    split <;> exact ⟨rfl, .inl rfl, rfl, rfl, rfl, rfl⟩
  case sweepTick =>
    simp only [exec, execSweepTick, Result.meets_next]
    split <;> exact ⟨rfl, .inl rfl, rfl, rfl, rfl, rfl⟩
  case frameInReceptionBegins =>
    simp only [exec, execFrameInReceptionBegins, Result.meets_next]
    (repeat' split) <;> exact ⟨rfl, .inl rfl, rfl, rfl, rfl, rfl⟩
  case passThroughRepeatBegins =>
    simp only [exec, execPassThroughRepeatBegins, Result.meets_next]
    split <;> exact ⟨rfl, .inl rfl, rfl, rfl, rfl, rfl⟩
  all_goals cases hi

namespace State.Settled

theorem assertReset (s : State) : s.assertReset.Settled where
  locks h := absurd rfl h
  ranges h := nomatch h
  inactive _ := ⟨rfl, rfl, rfl, rfl, rfl⟩
  timer h := nomatch h
  answers _ _ := rfl
  cleared _ := ⟨rfl, rfl, rfl⟩
  waits _ h := nomatch h
  drains h := nomatch h

variable {s : State} (h : s.Settled)
include h

theorem of_leavesStanding {t : State} (ht : s.LeavesStanding t) : t.Settled := by
  obtain ⟨hstanding, haccess | haccess, hqueue, hpending, hposts, hslots⟩ := ht
  · exact h.of_same hstanding hqueue haccess hpending hposts hslots
  · exact h.of_complete hstanding hqueue haccess hpending hposts hslots

theorem answer (code : BitVec 8) (arg : BitVec 16) (result : CommandResult) : (s.answer code arg result).Settled :=
  h.of_complete rfl rfl rfl rfl rfl rfl

/-- The probe record moves with a probe due, outstanding or lost at an active station alone. -/
theorem setProbe {p : ProbeRecord} (hactive : s.station.isActive = true) (ht : p.timer.isSome = true) :
    ({ s with probe := p } : State).Settled :=
  { h with
    inactive := fun hi => nomatch hactive.symm.trans hi
    timer := fun _ => ht }

/-! ### RESET and the clearing pass -/

theorem releaseReset : s.releaseReset.Settled := by
  unfold State.releaseReset
  split
  · next hr =>
    have hne : s.phase ≠ .ended := fun he => by simp [State.resetAsserted, he] at hr
    exact { h with
      cleared := fun _ => h.cleared hne
      waits := fun _ _ _ => rfl }
  · exact h

theorem takeAccess (a : Access) : (s.takeAccess a).Settled := by
  refine h.of_standing (s.standing_takeAccess a) (h.queue_of_same ?_) (s.takeAccess_waits a) (.of_same ?_ ?_ ?_) <;>
    rw [takeAccess_frame]

end State.Settled
end Sys2Proof.Machine

namespace Sys2Proof.Machine
namespace State

theorem open_of_grantsLocal {s : State} (h : s.grantsLocal = true) : s.storeClosed = false := by
  simp only [grantsLocal, Bool.and_eq_true, Bool.not_eq_true'] at h
  exact h.1.1

theorem open_of_grantsApply {s : State} (h : s.grantsApply = true) : s.storeClosed = false := by
  simp only [grantsApply, Bool.and_eq_true, Bool.not_eq_true'] at h
  exact h.1

theorem not_shown_of_open {s : State} (h : s.storeClosed = false) : s.clearingShown = false := by
  simp only [storeClosed, Bool.or_eq_false_iff] at h
  exact h.1

theorem not_shown_of_ended {s : State} (h : s.phase = .ended) : s.clearingShown = false := by
  simp [clearingShown, h]

theorem station_enterIsolated (s : State) (detail : RingDownDetail) : (s.enterIsolated detail).station = .isolated := by
  rw [enterIsolated_eq, station_of_besidesLines (besidesLines_drainTest _)]
  exact congrArg Standing.station (s.standing_isolated detail)

theorem standing_act_of_kind {s : State} {f : List Byte} (hkind : Frame.kind f ≠ .request) :
    (s.act f).1.besidesLines = s.besidesLines := by
  unfold act
  dsimp only
  split
  · split
    · exact besidesLines_decideUpdate _ _
    · rfl
  · split
    · exact besidesLines_decideUpdate _ _
    · rfl
  · next hk => exact absurd hk hkind
  all_goals rfl

namespace DrainFollows

theorem act (s : State) (f : List Byte) : DrainFollows s (s.act f).1 := by
  unfold State.act
  dsimp only
  split
  · split
    · exact decideUpdate s _
    · exact .refl s
  · split
    · exact decideUpdate s _
    · exact .refl s
  · split
    · unfold State.decideRequest
      split
      · dsimp only
        split
        · exact .refl s
        · exact .of_same rfl rfl rfl
      · exact .refl s
    · exact .refl s
  all_goals exact .refl s

end DrainFollows

namespace Settled

variable {s : State} (h : s.Settled)
include h

/-! ### Accesses and the clearing pass -/

theorem sampleHold (lhold noByte : Bool) : (s.sampleHold lhold noByte).Settled := by
  rw [sampleHold_frame]
  exact h.of_same rfl rfl rfl rfl rfl rfl

theorem waitForApply {a : Access} :
    ({ s with access := some { a with phase := .apply } } : State).Settled :=
  h.of_standing rfl (h.queue_of_same rfl) (fun b hb hw => by obtain rfl := Option.some.inj hb; cases hw)
    (.of_same rfl rfl rfl)

/-- An access that has waited for CLEARING is taken (R15). -/
theorem endClearing (hshown : s.clearingShown = true) :
    ({ s with phase := .ended } : State).resumeCleared.Settled := by
  have hne : s.phase ≠ .ended := fun he => by simp [State.clearingShown, he] at hshown
  obtain ⟨hoff, hunlocked, _⟩ := h.cleared hne
  have hended : ∀ t : State, t.standing = ({ s with phase := .ended } : State).standing →
      (∀ a, t.access = some a → a.phase ≠ .clearing) → DrainFollows s t → t.Settled := by
    intro t e haccess hdrain
    have hstation : t.station = s.station := congrArg Standing.station e
    have hprobe : t.probe = s.probe := congrArg Standing.probe e
    exact {
      locks := fun hst => absurd (hstation.trans hoff) hst
      ranges := fun hl => absurd ((congrArg Standing.locked e).symm.trans hl) (by
        change s.locked ≠ true
        rw [hunlocked]
        nofun)
      inactive := fun _ => by
        rw [hprobe]
        obtain ⟨hm, hrest⟩ := h.inactive (by rw [hoff]; rfl)
        exact ⟨(congrArg Standing.membership e).trans hm, hrest⟩
      timer := fun ha => by rw [hstation, hoff] at ha; cases ha
      answers := fun _ _ =>
        (congrArg Standing.answerQueue e).trans (h.answers (by rw [hoff]; nofun) (by rw [hoff]; nofun))
      cleared := fun hp => absurd (congrArg Standing.phase e) hp
      waits := fun a ha hw => absurd hw (haccess a ha)
      drains := fun hp => by
        have hd := (h.drains (hdrain hp).1).1
        rw [hoff] at hd
        cases hd }
  unfold State.resumeCleared
  split
  · next a _ =>
    split
    · have htaken : DrainFollows ({ s with phase := .ended } : State)
          (({ s with phase := .ended } : State).takeAccess a) := by
        rw [takeAccess_frame]
        exact .of_same rfl rfl rfl
      refine hended _ (standing_takeAccess _ a) (fun b hb hw => ?_) htaken
      exact nomatch takeAccess_waits _ a b hb hw
    · next b hb hp =>
      refine hended _ rfl (fun c hc => ?_) (.of_same rfl rfl rfl)
      obtain rfl := Option.some.inj (hb.symm.trans hc)
      exact hp
  · next hnone =>
    refine hended _ rfl (fun c hc => ?_) (.of_same rfl rfl rfl)
    exact nomatch hnone.symm.trans hc

theorem clearLine : s.clearLine.Settled := by
  unfold State.clearLine
  split
  · next line hp =>
    have hshown : s.clearingShown = true := by simp [State.clearingShown, hp]
    have hne : s.phase ≠ .ended := by rw [hp]; nofun
    have hw : ∀ bytes, (s.writeLine line bytes).Settled := fun _ => h.of_same rfl rfl rfl rfl rfl rfl
    dsimp only
    generalize List.replicate 32 (0 : Byte) = bytes
    split
    · exact { hw bytes with
        cleared := fun _ => h.cleared hne
        waits := fun _ _ _ => rfl }
    · exact (hw bytes).endClearing hshown
  all_goals exact h

theorem resumeApplied : s.resumeApplied.Settled := by
  have haccess := s.resumeApplied_access
  rw [resumeApplied_frame]
  refine h.of_standing rfl (h.queue_of_same rfl) (fun b hb hw => ?_) (.of_same rfl rfl rfl)
  rw [haccess] at hb
  obtain ⟨a, ha, rfl⟩ := Option.map_eq_some_iff.1 hb
  split at hw
  · cases hw
  · exact h.waits a ha hw

/-! ### The control window -/

theorem join (hoff : s.station = .offline) (hshown : s.clearingShown = false) (hreset : s.resetAsserted = false)
    (hrange : s.config.inRange = true) : s.join.Settled := by
  have hended : s.phase = .ended := ended_of_open (by simp [State.storeClosed, hshown, hreset])
  have hjoined : s.join.station = .joining ∧ s.join.locked = true ∧ s.join.config = s.config
      ∧ s.join.probe = { s.probe with due := true, timer := some (s.now + s.config.probeInterval.toNat) }
      ∧ s.join.answerQueue = s.answerQueue ∧ s.join.phase = s.phase ∧ s.join.access = s.access
      ∧ s.join.drainPending = s.drainPending := by
    unfold State.join State.joinRing
    dsimp only
    split <;> exact ⟨rfl, rfl, rfl, rfl, rfl, rfl, rfl, rfl⟩
  obtain ⟨hstation, hlocked, hconfig, hprobe, hanswers, hphase, haccess, hpending⟩ := hjoined
  exact {
    locks := fun _ => hlocked
    ranges := fun _ => hconfig ▸ hrange
    inactive := fun hi => by rw [hstation] at hi; cases hi
    timer := fun _ => by rw [hprobe]; rfl
    answers := fun _ _ => hanswers.trans (h.answers (by rw [hoff]; nofun) (by rw [hoff]; nofun))
    cleared := fun hp => absurd (hphase.trans hended) hp
    waits := fun a ha hw => by
      have hs := h.waits a (haccess ▸ ha) hw
      rw [hshown] at hs
      cases hs
    drains := fun hp => by
      have hd := (h.drains (hpending ▸ hp)).1
      rw [hoff] at hd
      cases hd }

theorem start (arg : BitVec 16) : (execStart arg s).Meets State.Settled := by
  simp only [execStart, Result.meets_next]
  split
  · exact h
  · next hport =>
    split
    · exact h.answer _ _ _
    · next hoff =>
      split
      · exact h.answer _ _ _
      · next hshown =>
        split
        · exact h.answer _ _ _
        · next hvalid =>
          have hreset : s.resetAsserted = false := by
            simp only [State.portFree, Bool.not_eq_true', Bool.not_eq_false, Bool.and_eq_true] at hport
            exact hport.2
          refine (h.join (not_not.1 hoff) (Bool.eq_false_iff.2 hshown) hreset ?_).answer _ _ _
          cases hl : s.locked with
          | true => exact h.ranges hl
          | false =>
            simp only [hl, Bool.not_false, Bool.true_and, Bool.not_eq_true', Bool.not_eq_false, State.configValid,
              Bool.and_eq_true] at hvalid
            exact hvalid.1

theorem configWrite (word : BitVec 2) (value : Word) : (execConfigWrite word value s).Meets State.Settled := by
  simp only [execConfigWrite, Result.meets_next]
  split
  · exact h
  · split
    · exact h.of_complete rfl rfl rfl rfl rfl rfl
    · next hl =>
      have hc : ({ s with config := s.config.withWord word value } : State).Settled :=
        { h with ranges := fun hlocked => absurd hlocked hl }
      exact hc.of_complete rfl rfl rfl rfl rfl rfl

theorem drain (arg : BitVec 16) : (execDrain arg s).Meets State.Settled := by
  simp only [execDrain, Result.meets_next]
  split
  · exact h
  · split
    · exact h.answer _ _ _
    · next hactive =>
      rw [Bool.not_eq_true', Bool.not_eq_false] at hactive
      split
      · exact h.answer _ _ _
      · refine State.Settled.answer ?_ _ _ _
        have hp := ({ s with drainPending := true } : State).drainTest_drainPending
        have hd := ({ s with drainPending := true } : State).drainTest_drained
        rw [drainTest_frame]
        exact { h with
          drains := fun hpending => by
            change ({ s with drainPending := true } : State).drainTest.drainPending = true at hpending
            rw [hp, Bool.and_eq_true, Bool.not_eq_true'] at hpending
            exact ⟨hactive, hpending.2⟩ }

/-! ### Probes -/

theorem loseProbe (hactive : s.station.isActive = true) : s.loseProbe.Settled := by
  have ht : { s with probe := { s.probe with outstanding := none, losses := min 3 (s.probe.losses + 1) } }.Settled :=
    h.setProbe hactive (h.timer hactive)
  unfold State.loseProbe
  dsimp only
  split
  · exact ht.enterIsolated hactive .probes
  · exact ht

/-- A probe is outstanding at an active station alone (R159, R171). -/
theorem active_of_outstanding {p : OutstandingProbe} (hp : s.probe.outstanding = some p) : s.station.isActive = true := by
  by_contra hne
  rw [(h.inactive (Bool.eq_false_iff.2 hne)).2.2.1] at hp
  cases hp

theorem probeLost : (execProbeLost s).Meets State.Settled := by
  simp only [execProbeLost, Result.meets_next]
  split
  · next n d hp =>
    have ht : (s.reach d).Settled := h.of_same rfl rfl rfl rfl rfl rfl
    exact ht.loseProbe (h.active_of_outstanding hp)
  all_goals exact h

theorem probeIntervalExpiry : (execProbeIntervalExpiry s).Meets State.Settled := by
  simp only [execProbeIntervalExpiry, Result.meets_next]
  split
  · next t ht =>
    have hactive : s.station.isActive = true := by
      by_contra hne
      rw [(h.inactive (Bool.eq_false_iff.2 hne)).2.2.2.1] at ht
      cases ht
    have hr : (s.reach t).Settled := h.of_same rfl rfl rfl rfl rfl rfl
    exact hr.setProbe hactive rfl
  · exact h

theorem reportProbe (number : BitVec 8) : (s.reportProbe number).Settled := by
  unfold State.reportProbe
  split
  · split
    · next hreport => exact h.setProbe hreport.1 (h.timer hreport.1)
    · exact h
  · exact h

theorem probeReturns (hactive : s.station.isActive = true) (map : BitVec 32) : (s.probeReturns map).Settled := by
  have hgive : ∀ {t : State} (n : Notice), t.Settled → (t.give n).Settled :=
    fun n ht => ht.of_same rfl rfl rfl rfl rfl rfl
  have hended := h.ended_of_active hactive
  have hp := h.setProbe (p := { s.probe with losses := 0, outstanding := none }) hactive (h.timer hactive)
  have ht : ({ s with
      membership := map, probe := { s.probe with losses := 0, outstanding := none } } : State).Settled :=
    { hp with inactive := fun hi => nomatch hactive.symm.trans hi }
  have hup : ({ s with
      membership := map, probe := { s.probe with losses := 0, outstanding := none }
      station := .online } : State).Settled :=
    { ht with
      locks := fun _ => h.locks (StationState.ne_offline_of_active hactive)
      inactive := fun hi => nomatch hi
      timer := fun _ => h.timer hactive
      answers := fun hne => absurd rfl hne
      cleared := fun hne => absurd hended hne
      drains := fun hd => ⟨rfl, (h.drains hd).2⟩ }
  have hstate : (if s.station = .joining ∨ s.station = .isolated then
      ({ s with
          membership := map, probe := { s.probe with losses := 0, outstanding := none }, station := .online }
        : State).give .ringUp
      else { s with membership := map, probe := { s.probe with losses := 0, outstanding := none } }).Settled := by
    split
    · exact hgive _ hup
    · exact ht
  unfold State.probeReturns
  dsimp only
  split
  · exact hstate
  · exact hgive _ hstate

theorem buildProbe (hactive : s.station.isActive = true) : s.buildProbe.Settled := by
  have hkeep : ∀ {t : State} (p : ProbeRecord) (f : List Byte), t.Settled → t.station.isActive = true →
      p.timer = t.probe.timer → ({ t with probe := p }.handOver f).Settled :=
    fun p f ht ha hp => (ht.setProbe (p := p) ha (hp ▸ ht.timer ha)).of_same rfl rfl rfl rfl rfl rfl
  have hlost : s.loseProbe.station.isActive = true := by
    unfold State.loseProbe
    dsimp only
    split
    · next hl =>
      rw [station_enterIsolated]
      rfl
    · exact hactive
  unfold State.buildProbe
  dsimp only
  split
  · exact hkeep _ _ (h.loseProbe hactive) hlost rfl
  · exact hkeep _ _ h hactive rfl
  · exact hkeep _ _ h hactive rfl

/-! ### Frames -/

theorem returnFrame (hended : s.phase = .ended) (f : List Byte) (p : Purpose) : (s.returnFrame f p).Settled :=
  h.of_lines (by simp) (fun hne => absurd hended hne) (.returnFrame s f p)

theorem strip (hactive : s.station.isActive = true) (f : List Byte) : (s.strip f).Settled := by
  have hended := h.ended_of_active hactive
  unfold State.strip
  split
  · unfold State.stripProbe
    split
    · exact h.enterFault hactive
    · split
      · exact h.probeReturns hactive _
      · exact h
  · split
    · exact h
    · exact h.returnFrame hended f _
  · split
    · exact h
    · exact h.returnFrame hended f _
  · exact h.returnFrame hended f _
  · exact h

theorem decideRequest (line : Nat) (stamp : Stamp) : (s.decideRequest line stamp).1.Settled := by
  unfold State.decideRequest
  split
  · next htakes =>
    have hon : s.station = .online := by
      simp only [State.takesRequest, Bool.and_eq_true, beq_iff_eq] at htakes
      exact htakes.1.1.1
    dsimp only
    split
    · exact h
    · exact { h with answers := fun hne => absurd hon hne }
  · exact h

theorem act (hended : s.phase = .ended) (f : List Byte) : (s.act f).1.Settled := by
  by_cases hkind : Frame.kind f = .request
  · unfold State.act
    simp only [hkind]
    split
    · exact h.decideRequest _ _
    · exact h
  · exact h.of_lines (standing_act_of_kind hkind) (fun hne => absurd hended hne) (.act s f)

theorem routeFrame (hactive : s.station.isActive = true) (f : List Byte) (sent : Nat) : (s.routeFrame f sent).Settled := by
  unfold State.routeFrame
  split
  · exact h
  · split
    · exact h.strip hactive f
    · split
      · exact h
      · have ha := h.act (h.ended_of_active hactive) f
        dsimp only
        rw [enterFifo_frame]
        exact ha.of_same rfl rfl rfl rfl rfl rfl

theorem reportInsertion (f : List Byte) : (s.reportInsertion f).Settled := by
  have hslot : ∀ i g, (s.reportSlot i g).Settled := fun i g => by
    refine h.of_lines (by simp) (h.queue_of_same ?_) (.reportSlot s i g)
    unfold State.reportSlot
    dsimp only
    split
    · rfl
    · split <;> rfl
  unfold State.reportInsertion
  split
  · exact h.reportProbe _
  · split
    · exact h
    · exact hslot _ _
  · split
    · exact h
    · exact hslot _ _
  · exact hslot _ _
  · exact h

/-! ### The Framer -/

theorem choose : s.choose.Settled := by
  by_cases hp : s.probeReady = true
  · rw [State.choose, if_pos hp]
    simp only [State.probeReady, Bool.and_eq_true] at hp
    exact h.buildProbe hp.2
  · rw [Bool.not_eq_true] at hp
    by_cases hon : s.station = .online
    · exact h.of_framerMoves (h.ended_of_active (by rw [hon]; rfl)) (s.framerMoves_choose hp) (.choose hp)
    · rw [State.choose, if_neg (by simp [hp]), if_pos hon]
      exact h

/-- A granted fetch after storage faults. -/
theorem of_fetch {b : Build} (hb : FetchGranted s b) {line : Nat} {u : Option Upset} {t : State}
    (hm : FramerMoves (s.strike line u) t) (hdrain : DrainFollows (s.strike line u) t) : t.Settled :=
  h.of_framerMoves (ended_of_grantsFramer hb.2) hm.of_strike ((DrainFollows.strike s line u).trans hdrain)

theorem abandonBuild : s.abandonBuild.Settled := h.of_same rfl rfl rfl rfl rfl rfl

/-- The head of the Answer Queue leaves it. -/
theorem popAnswer {line : Nat} {rest : List Nat} (hq : s.answerQueue = line :: rest) :
    ({ s with answerQueue := rest } : State).Settled :=
  { h with
    answers := fun hon hiso => nomatch hq.symm.trans (h.answers hon hiso) }

theorem answerBuild (u : Option Upset) : (execAnswerBuild u s).Meets State.Settled := by
  refine execAnswerBuild_meets h u h.abandonBuild fun line rest hb hq => ?_
  have hs : (s.strike line u).Settled := by
    rw [strike_frame]
    exact h.of_same rfl rfl rfl rfl rfl rfl
  have hqs : (s.strike line u).answerQueue = line :: rest := by rw [strike_answerQueue]; exact hq
  have hpop := hs.popAnswer hqs
  have hended : (s.strike line u).phase = .ended := by rw [strike_phase]; exact ended_of_grantsFramer hb.2
  refine hpop.of_framerMoves hended (framerMoves_buildAnswer _ line rest) ?_
  have hdrain := DrainFollows.buildAnswer (s.strike line u) line rest
  exact hdrain

/-! ### The step -/

theorem applied {e : ApplyEntry} {rest : List ApplyEntry} (hq : s.applyQueue = e :: rest) {t : State}
    (hlines : t.besidesLines = s.besidesLines) (hdrain : DrainFollows s t) : t.resumeApplied.Settled := by
  have ht : t.Settled := h.of_lines hlines (fun hne => by
    have := (h.cleared hne).2.2
    rw [hq] at this
    cases this) hdrain
  exact ht.resumeApplied

theorem granted {a : Access} (hg : GrantActs s a) (u : Option Upset) {t : State}
    (hstanding : t.standing = ((s.strike (lineOf a.la) u).bindHold a).standing) (haccess : t.access = none)
    (hdrain : DrainFollows ((s.strike (lineOf a.la) u).bindHold a) t) : t.Settled := by
  obtain ⟨_, hlocal, _⟩ := hg
  exact h.of_standing (hstanding.trans (s.standing_strikeAndBind a u))
    (fun hne => absurd (ended_of_open (open_of_grantsLocal hlocal)) hne) (waits_of_none haccess)
    ((DrainFollows.strikeAndBind s a u).trans hdrain)

/-- Every command keeps the invariant. -/
theorem exec_meets (i : Instr) : Result.Meets (exec i s) State.Settled := by
  by_cases hi : leavesStanding i = true
  · exact fun t ht => h.of_leavesStanding (exec_leavesStanding hi s t ht)
  cases i
  case reset => exact Result.meets_next.2 (assertReset s)
  case resetRelease => exact Result.meets_next.2 h.releaseReset
  case clearingPassClaim => exact Result.meets_next.2 h.clearLine
  case replicaRead la lhold =>
    simp only [exec, execReplicaRead, Result.meets_next]
    split
    · exact (h.sampleHold _ _).takeAccess _
    · exact h
  case replicaWrite la be ld lhold =>
    simp only [exec, execReplicaWrite, Result.meets_next]
    split
    · exact (h.sampleHold _ _).takeAccess _
    · exact h
  case readClaimGranted u =>
    exact execReadClaimGranted_meets h u (fun _ _ => h.waitForApply)
      fun a hg => h.granted hg u (standing_readWord _ _) (access_readWord _ _) (.readWord _ _)
  case writeClaimGranted u =>
    exact execWriteClaimGranted_meets h u (fun _ _ => h.waitForApply)
      fun a be ld hg => h.granted hg u (standing_writeWord _ _ _ _) (access_writeWord _ _ _ _) (.writeWord _ _ _ _)
  case configWrite word value => exact h.configWrite word value
  case start arg => exact h.start arg
  case leave arg =>
    simp only [exec, execLeave, Result.meets_next]
    split
    · exact h
    · split
      · next hactive => exact h.leave hactive arg
      · exact h.answer _ _ _
  case drain arg => exact h.drain arg
  case frameReceivedWhole bytes sent =>
    have ht : ({ s with receiving := false } : State).Settled := h.of_same rfl rfl rfl rfl rfl rfl
    exact execFrameReceivedWhole_meets_receiving h bytes sent ht
      fun hr => ht.routeFrame (active_of_receives hr) bytes sent
  case carrierLost =>
    have ht : ({ s with carrier := false, receiving := false } : State).Settled := h.of_same rfl rfl rfl rfl rfl rfl
    refine execCarrierLost_meets_joined h ht fun hst => ht.enterIsolated ?_ .carrier
    change s.station.isActive = true
    obtain hst | hst := hst <;> rw [hst] <;> rfl
  case insertionComplete =>
    have ht : ({ s with sending := .idle, place := none } : State).Settled := h.of_same rfl rfl rfl rfl rfl rfl
    exact execInsertionComplete_meets h fun f _ => ht.reportInsertion f
  case framerChoice => exact execFramerChoice_meets h h.choose
  case postBuild u =>
    exact execPostBuild_meets h u fun line hb => h.of_fetch hb (framerMoves_buildPost _ line) (.buildPost _ line)
  case mendResendBuild u =>
    exact execMendResendBuild_meets h u h.abandonBuild fun i v hb hv =>
      h.of_fetch hb (framerMoves_buildMendResend _ i v) (.buildMendResend (by rw [strike_slot]; exact hv))
  case replacementBuild u =>
    exact execReplacementBuild_meets h u h.abandonBuild fun i v hb _ =>
      h.of_fetch hb (framerMoves_buildReplacement _ i v) (.buildReplacement _ i v)
  case answerBuild u => exact h.answerBuild u
  case sweepRefreshFetch u =>
    exact execSweepRefreshFetch_meets h u fun hb => h.of_fetch hb (framerMoves_fetchSweep _ _) (.fetchSweep _ _)
  case applyFull =>
    exact execApplyFull_meets h fun e rest hq _ _ => h.applied hq (by simp) (.applyFullEntry s e rest)
  case applyDelta u =>
    exact execApplyDelta_meets h u fun e rest hq _ _ => h.applied hq (by simp) (.applyDeltaEntry s e rest u)
  case updateDeadline i =>
    refine execUpdateDeadline_meets h i fun u d hu _ _ => ?_
    have ht : (s.reach d).Settled := h.of_same rfl rfl rfl rfl rfl rfl
    exact ht.of_lines (by simp) (ht.queue_of_same (updateDeadline_applyQueue _ i u)) (.updateDeadline hu)
  case repairDeadline i =>
    refine execRepairDeadline_meets h i fun u d hu hp _ => ?_
    have ht : (s.reach d).Settled := h.of_same rfl rfl rfl rfl rfl rfl
    exact ht.of_lines (by simp) (ht.queue_of_same (repairUnanswered_applyQueue _ i u)) (.repairUnanswered hu hp)
  case probeLost => exact h.probeLost
  case probeIntervalExpiry => exact h.probeIntervalExpiry
  all_goals exact absurd rfl hi

end Settled
end State

/-- Settles O60: the tick moves the time and the queue of commands alone, and every command keeps the invariant. -/
theorem stepsKeepTheStationAgreed : Obligations.StepsKeepTheStationAgreed := by
  unfold Obligations.StepsKeepTheStationAgreed
  intro s t h hstep
  rw [← State.settled_iff] at h ⊢
  exact step_meets (fun _ hs => hs.of_same rfl rfl rfl rfl rfl rfl) (fun _ _ hs => hs.of_same rfl rfl rfl rfl rfl rfl)
    (fun i _ hs => hs.exec_meets i) h t hstep

end Sys2Proof.Machine

/-! # Single steps of the port and of the link

Claims that wait again, configuration words, START, replica writes, receptions, and ring-out. -/

namespace Sys2Proof.Machine

/-! ## Claims that find apply pending -/

/-- Settles O10: the grant finds the line keeping its access waiting, which both kinds of claim return to the wait. -/
theorem grantThatFindsApplyPendingWaitsAgain : Obligations.GrantThatFindsApplyPendingWaitsAgain := by
  unfold Obligations.GrantThatFindsApplyPendingWaitsAgain
  intro s a u haccess hgrant hpending hheld
  have hwaits : s.keepsWaiting (lineOf a.la) = true := (s.keepsWaiting_iff _).2 ⟨hpending, hheld⟩
  refine ⟨fun hkind => ?_, fun be ld hkind => ?_⟩
  · simp [exec, execReadClaimGranted, haccess, hgrant, hkind, hwaits]
  · simp [exec, execWriteClaimGranted, haccess, hgrant, hkind, hwaits]

/-! ## Configuration words -/

/-- Settles O15: the lock decides between the two answers, and a word's fields are those of `ConfigRecord.withWord`. -/
theorem configWriteSetsItsWord : Obligations.ConfigWriteSetsItsWord := by
  unfold Obligations.ConfigWriteSetsItsWord
  intro s w v hport
  refine ⟨fun hlocked => ?_, fun hlocked => ?_⟩
  · simp [exec, execConfigWrite, hport.portFree, hlocked, State.complete]
  · simp [exec, execConfigWrite, hport.portFree, hlocked, State.complete, ConfigRecord.withWord]

/-! ## Reception -/

/-- Settles O22: the causes of a reception's beginning and end, one by one. -/
theorem receptionBeginsAndBreaksOff : Obligations.ReceptionBeginsAndBreaksOff := by
  unfold Obligations.ReceptionBeginsAndBreaksOff
  refine ⟨fun s hreceives hreset => ⟨?_, fun hreceiving => ?_⟩, fun s => ⟨fun hreset => ?_, fun hreset => ?_⟩⟩
  · simp [exec, execFrameInReceptionBegins, hreset, hreceives]
  · have hbroken (c : BreakCause) :
        exec (.receptionBrokenOff c) s = .next { s with receiving := c == .start } := by
      simp [exec, execReceptionBrokenOff, hreceives, hreceiving]
    refine ⟨?_, hbroken .idle, hbroken .invalid, hbroken .byte59⟩
    rw [hbroken .start]
    exact congrArg _ (by rw [show (BreakCause.start == BreakCause.start) = s.receiving from hreceiving.symm])
  · simp [exec, execCarrierRegained, hreset]
  · simp [exec, execCarrierRegained, execFrameInReceptionBegins, hreset]

/-! ## Replica writes -/

/-- LHOLD deasserted ends a hold, but for a HELD one at a write with no byte enabled (R176, R182, R184). -/
theorem State.sampleHold_hold_iff (s : State) (lhold noByte : Bool) :
    (s.sampleHold lhold noByte).hold =
      if lhold = true ∨ (noByte = true ∧ s.holdIsBroken = false) then s.hold else .free := by
  cases lhold with
  | true => rfl
  | false =>
    unfold State.sampleHold State.holdIsBroken
    cases noByte <;> cases hhold : s.hold <;> simp [State.freeHold, hhold]

theorem exec_replicaWrite_of_portTakes {s : State} (la : BitVec 15) (be : BitVec 4) (ld : Word) (lhold : Bool)
    (h : PortTakes s) :
    exec (.replicaWrite la be ld lhold) s =
      .next ((s.sampleHold lhold (be == 0)).takeAccess ⟨.write be ld, la, lhold, .clearing⟩) := by
  simp only [exec, execReplicaWrite, h.portFree, if_true]
  rfl

/-- Settles O7: LHOLD is sampled first, and the access then waits for CLEARING or goes its course. -/
theorem replicaWriteIsTakenByItsSteps : Obligations.ReplicaWriteIsTakenByItsSteps := by
  unfold Obligations.ReplicaWriteIsTakenByItsSteps
  intro s la be ld lhold hport
  have hhold := (s.sampleHold lhold (be == 0)).takeAccess_hold ⟨.write be ld, la, lhold, .clearing⟩
  refine ⟨_, exec_replicaWrite_of_portTakes la be ld lhold hport, ?_, ?_, fun hshown => ?_, fun hshown => ?_⟩
  · refine (State.takeAccess_frame _ _).trans ?_
    rw [hhold]
    generalize (s.sampleHold lhold (be == 0)).takeAccess _ = t
    rw [State.sampleHold_frame]
  · rw [hhold, State.sampleHold_hold_iff]
    simp
  · rw [State.takeAccess_of_clearing _ _ (by simpa using hshown)]
    exact ⟨rfl, rfl, s.sampleHold_notices lhold (be == 0)⟩
  · exact (takenBySteps_sampleHold lhold (be == 0)).1 (State.takeAccess_takenBySteps _ _ (by simpa using hshown))

/-! ## START -/

/-- A window size puts a window in force exactly when it is one of the four (R1, R149). -/
theorem windowOf_ne_zero_iff (size : BitVec 16) :
    windowOf size ≠ 0 ↔ size = 512 ∨ size = 1024 ∨ size = 2048 ∨ size = 4096 := by
  unfold windowOf
  split
  · next h => exact ⟨fun _ => h, fun _ => by rcases h with rfl | rfl | rfl | rfl <;> decide⟩
  · next h => exact ⟨fun h0 => absurd rfl h0, fun h' => absurd h' h⟩

/-- The ranges that START tests (R149, R151). -/
theorem ConfigRecord.inRange_iff (c : ConfigRecord) : c.inRange = true ↔ InRange c := by
  have hdelta : c.deltaEnable.toNat ≤ 1 ↔ c.deltaEnable = 0 ∨ c.deltaEnable = 1 := by bv_omega
  have hwindow := windowOf_ne_zero_iff c.windowSize
  simp only [ConfigRecord.inRange, InRange, Bool.and_eq_true, decide_eq_true_eq, bne_iff_ne, hdelta, hwindow, and_assoc]

/-- A record in use is listed, watched or POSTED (R151). -/
theorem LineRecord.inUse_eq_false_iff (r : LineRecord) :
    r.inUse = false ↔ r.listed = false ∧ r.watched = false ∧ ∀ p, r.pending ≠ .posted p := by
  unfold LineRecord.inUse
  cases r.pending <;> simp

/-- In a canonical table a property of the reset record holds of every record when it holds of every cell. -/
theorem Sparse.forall_get_iff {α : Type} {d : α} {m : List (Nat × α)} (hm : Sparse.Wf d m) (P : Nat → α → Prop)
    (hd : ∀ i, P i d) : (∀ i, P i (Sparse.get d m i)) ↔ ∀ c ∈ m, P c.1 c.2 := by
  constructor
  · intro h c hc
    have := h c.1
    rwa [Sparse.get_of_mem _ hm.1 (show (c.1, c.2) ∈ m from hc)] at this
  · intro h i
    by_cases hi : ∃ v, (i, v) ∈ m
    · obtain ⟨v, hv⟩ := hi
      rw [Sparse.get_of_mem _ hm.1 hv]
      exact h _ hv
    · rw [Sparse.get_of_not_mem d fun v hv => hi ⟨v, hv⟩]
      exact hd i

/-- START finds no line beyond the window in use (R151). -/
theorem State.configValid_iff {s : State} (hwf : Sparse.Wf LineRecord.reset s.lines) :
    s.configValid = true ↔ InRange s.config ∧ NoneBeyondWindow s := by
  have hlines := Sparse.forall_get_iff hwf (fun l r => s.inWindow l = false → r.inUse = false) fun _ _ => rfl
  have hnone : NoneBeyondWindow s ↔ ∀ l, s.inWindow l = false → (s.lineRec l).inUse = false :=
    forall_congr' fun l => imp_congr_right fun _ => (s.lineRec l).inUse_eq_false_iff.symm
  rw [State.configValid, Bool.and_eq_true, ConfigRecord.inRange_iff, hnone]
  refine and_congr_right fun _ => (Iff.trans ?_ hlines.symm)
  rw [List.all_eq_true]
  refine forall_congr' fun c => imp_congr_right fun _ => ?_
  cases h : c.2.inUse <;> simp [State.inWindow]

/-- Asking for the switch, or cancelling it, is all that an accepted START does to the link (R137, R153). -/
theorem State.joinRing_eq (s : State) : s.joinRing = { s with switchAsked := !(s.linkMode == .active) } := by
  unfold State.joinRing
  cases s.linkMode <;> rfl

section
variable {s : State} (arg : BitVec 16) (h : PortTakes s)
include h

theorem exec_start_of_not_offline (hs : s.station ≠ .offline) :
    exec (.start arg) s = .next (s.answer 1 arg .wrongState) := by
  simp [exec, execStart, h.portFree, hs]

theorem exec_start_of_clearing (hs : s.station = .offline) (hc : s.clearingShown = true) :
    exec (.start arg) s = .next (s.answer 1 arg .notReady) := by
  simp [exec, execStart, h.portFree, hs, hc]

/-- Out of CLEARING the lock or a valid configuration lets START in (R151, R153). -/
theorem exec_start_of_offline (hs : s.station = .offline) (hc : s.clearingShown = false) :
    exec (.start arg) s =
      .next (if s.locked = true ∨ s.configValid = true then s.join.answer 1 arg .accepted
        else s.answer 1 arg .configInvalid) := by
  cases hl : s.locked <;> cases hv : s.configValid <;> simp [exec, execStart, h.portFree, hs, hc, hl, hv]

end

/-- Settles O16: the station state, CLEARING, the lock and the configuration decide, in this order. -/
theorem startIsTakenByTheStationState : Obligations.StartIsTakenByTheStationState := by
  unfold Obligations.StartIsTakenByTheStationState
  intro s arg hport hwf
  have hvalid := State.configValid_iff hwf
  refine ⟨exec_start_of_not_offline arg hport, exec_start_of_clearing arg hport,
    fun hstation hshown hlocked hbad => ?_, fun hstation hshown hgood => ?_⟩
  · rw [exec_start_of_offline arg hport hstation hshown, if_neg (by rw [hvalid]; simp [hlocked, hbad])]
    rfl
  · rw [exec_start_of_offline arg hport hstation hshown, if_pos (by rwa [hvalid])]
    simp [State.join, State.joinRing_eq, State.answer, State.complete, commandValue]

end Sys2Proof.Machine

/-! # A probe home in time, ring-out, and the report of an own insertion -/

namespace Sys2Proof.Machine

/-! ## A probe of this station in time -/

/-- The outstanding probe is awaited up to its deadline (R162). -/
theorem State.awaitsProbe_of_inTime {s : State} {p : OutstandingProbe} {d : Nat} (hp : s.probe.outstanding = some p)
    (hd : p.deadline = some d) (hnow : s.now ≤ d) : s.awaitsProbe p.number = true := by
  obtain ⟨number, deadline⟩ := p
  cases hd
  simp [State.awaitsProbe, hp, hnow]

/-- What the return of a probe leaves (R163). -/
theorem State.probeReturns_eq (s : State) (map : BitVec 32) :
    s.probeReturns map =
      { s with
        membership := map
        probe := { s.probe with losses := 0, outstanding := none }
        station := if s.station = .joining ∨ s.station = .isolated then .online else s.station
        notices := noticesAfter s.notices
          ((if s.station = .joining ∨ s.station = .isolated then [.ringUp] else [])
            ++ if map ≠ s.membership then [.membership (popcount map)] else []) } := by
  unfold State.probeReturns noticesAfter
  by_cases hup : s.station = .joining ∨ s.station = .isolated
  · by_cases hmap : map = s.membership
    · simp [hup, hmap, State.give]
    · simp [hup, hmap, State.give]
  · by_cases hmap : map = s.membership
    · simp [hup, hmap]
    · simp [hup, hmap, State.give]

theorem State.strip_probe_of_inTime {s : State} {f : List Byte} (hkind : Frame.kind f = .probe)
    (hown : Frame.token f = s.config.instanceToken) (hawaits : s.awaitsProbe (Frame.tag f) = true) :
    s.strip f = s.probeReturns (Frame.presence f) := by
  simp [State.strip, hkind, State.stripProbe, hown, hawaits]

/-- Settles O34: the probe with the station's own token is the one awaited, and its return is taken. -/
theorem probeReturnInTime : Obligations.ProbeReturnInTime := by
  unfold Obligations.ProbeReturnInTime
  intro s f sent p d hstrip hkind htoken hp hnumber hd hnow
  have hawaits : s.endReception.awaitsProbe (Frame.tag f) = true := by
    rw [← hnumber]
    exact State.awaitsProbe_of_inTime hp hd hnow
  have hown : Frame.token f = s.endReception.config.instanceToken := htoken
  rw [exec_frameReceivedWhole_of_strip sent hstrip]
  rw [State.strip_probe_of_inTime hkind hown hawaits, State.probeReturns_eq]
  rfl

/-! ## Ring-out -/

/-- The frame whose END is sent leaves the Bypass FIFO (R143). -/
theorem State.endForwarded_eq {s : State} (h : s.sending ≠ .own) :
    s.endForwarded =
      { s with
        fifo := match s.sending with | .forwarded _ => s.fifo.tail | .idle | .own => s.fifo
        sending := .idle } := by
  obtain hs | ⟨n, hs⟩ : s.sending = .idle ∨ ∃ n, s.sending = .forwarded n := by
    cases hs : s.sending <;> simp_all
  · have hself : ({ s with sending := .idle } : State) = s := by rw [← hs]
    simp only [State.endForwarded, hs]
    exact hself.symm
  · simp [State.endForwarded, hs]

/-- The output arbiter's choice sets what ring-out sends, and nothing else (R144). -/
theorem State.chooseOutput_eq (s : State) :
    s.chooseOutput =
      { s with sending := if s.fifo ≠ [] then .forwarded 0 else if s.place.isSome = true then .own else .idle } := by
  unfold State.chooseOutput
  split <;> simp_all

theorem exec_outputArbiterChoice_of_free {s : State} (hlink : s.linkMode = .active) (hasked : s.switchAsked = false)
    (hsending : s.sending ≠ .own) : exec .outputArbiterChoice s = .next s.endForwarded.chooseOutput := by
  simp [exec, execOutputArbiterChoice, hlink, hasked, hsending]

/-- While the Forwarding Unit is active, ring-out carries the frame being sent, or IDLE (R130). -/
theorem State.ringOut_of_active {s : State} (h : s.linkMode = .active) :
    (∀ f rest n, s.sending = .forwarded n → s.fifo = f :: rest →
        s.ringOut = .sends (.start :: (f.map .data ++ [.finish])))
      ∧ (∀ f, s.sending = .own → s.place = some f → s.ringOut = .sends (.start :: (f.map .data ++ [.finish])))
      ∧ (s.sending = .idle → s.ringOut = .sends [.idle]) := by
  refine ⟨fun f rest n hs hf => ?_, fun f hs hp => ?_, fun hs => ?_⟩
  · simp [State.ringOut, h, hs, hf, RingOut.frame, Frame.symbols]
  · simp [State.ringOut, h, hs, hp, RingOut.frame, Frame.symbols]
  · simp [State.ringOut, h, hs, RingOut.idle]

theorem exec_switchToActive_of_asked {s : State} (b : FrameBoundary) (hlink : s.linkMode ≠ .active)
    (hasked : s.switchAsked = true) :
    exec (.switchToActive b) s =
      .next { s with
        linkMode := .active, switchAsked := false, sending := .idle
        receiving := decide (b = .brokenByStart), carrier := s.carrier || decide (b = .brokenByStart) } := by
  have hb : (b == .brokenByStart) = decide (b = .brokenByStart) := by cases b <;> rfl
  simp [exec, execSwitchToActive, hlink, hasked, hb]

theorem exec_switchToPassThrough_of_asked {s : State} (hlink : s.linkMode = .active) (hasked : s.switchAsked = true)
    (hsending : s.sending ≠ .own) :
    exec .switchToPassThrough s = .next { s.endForwarded with linkMode := .idleUntilStart, switchAsked := false } := by
  simp [exec, execSwitchToPassThrough, hlink, hasked, hsending]

theorem exec_passThroughRepeatBegins_of_idle {s : State} (hlink : s.linkMode = .idleUntilStart) :
    exec .passThroughRepeatBegins s = .next { s with linkMode := .repeating, carrier := true } := by
  simp [exec, execPassThroughRepeatBegins, hlink]

/-- Settles O36: the choice, the symbols of each sending, and the switches, each by its condition. -/
theorem outputArbiterAndSwitches : Obligations.OutputArbiterAndSwitches := by
  unfold Obligations.OutputArbiterAndSwitches
  refine ⟨fun s hlink hasked hsending => ⟨_, rfl, ?_⟩, fun s hlink => State.ringOut_of_active hlink,
    fun s => ⟨fun b hlink hasked => ⟨_, exec_switchToActive_of_asked b hlink hasked, rfl, rfl⟩,
      fun hlink hasked hsending => ?_, fun hlink => ⟨_, exec_passThroughRepeatBegins_of_idle hlink, rfl, rfl⟩⟩⟩
  · rw [exec_outputArbiterChoice_of_free hlink hasked hsending, State.endForwarded_eq hsending, State.chooseOutput_eq]
      <;> rfl
  · refine ⟨_, exec_switchToPassThrough_of_asked hlink hasked hsending, ?_, rfl⟩
    rw [State.endForwarded_eq hsending] <;> rfl

/-! ## The report of an own insertion -/

/-- The report of a tracked frame sets the deadline of a slot that has neither a transmission due nor a deadline (R80). -/
theorem State.reportSlot_sets {s : State} {i : SlotNo} {u : SlotUse} {g : BitVec 4} (hu : (s.slot i).use = some u)
    (hg : g = (s.slot i).generation - 1) (hdue : u.due = none) (hdeadline : u.deadline = none) :
    s.reportSlot i g =
      s.setSlot i
        { s.slot i with use := some { u with deadline := some (s.now + s.config.returnLimit.toNat) } } := by
  simp [State.reportSlot, hu, hg, hdue, hdeadline]

/-- Every other report of a tracked frame sets nothing (R80). -/
theorem State.reportSlot_of_unasked {s : State} {i : SlotNo} {g : BitVec 4}
    (h : (s.slot i).use = none ∨ ∃ u, (s.slot i).use = some u
      ∧ (g ≠ (s.slot i).generation - 1 ∨ u.due ≠ none ∨ u.deadline ≠ none)) : s.reportSlot i g = s := by
  unfold State.reportSlot
  rcases h with h | ⟨u, hu, h⟩
  · simp [h]
  · have hcond : ¬ (g = (s.slot i).generation - 1 ∧ u.due = none ∧ u.deadline = none) := by tauto
    simp only [hu, if_neg hcond]

/-- The report of the outstanding probe sets its deadline while it is absent and the station is active (R161). -/
theorem State.reportProbe_sets {s : State} {p : OutstandingProbe} (hp : s.probe.outstanding = some p)
    (ha : s.station.isActive = true) (hd : p.deadline = none) :
    s.reportProbe p.number =
      { s with
        probe := { s.probe with
          outstanding := some { p with deadline := some (s.now + s.config.returnLimit.toNat) } } } := by
  simp [State.reportProbe, hp, ha, hd]

/-- Every other report of a probe sets nothing (R161). -/
theorem State.reportProbe_of_unasked {s : State} {number : BitVec 8}
    (h : s.probe.outstanding = none ∨ s.station.isActive = false
      ∨ ∃ p, s.probe.outstanding = some p ∧ (p.number ≠ number ∨ p.deadline ≠ none)) :
    s.reportProbe number = s := by
  unfold State.reportProbe
  split
  · next p hp =>
    refine if_neg fun hc => ?_
    rcases h with h | h | ⟨q, hq, h⟩
    · simp [h] at hp
    · simp [h] at hc
    · obtain rfl : p = q := by simpa [hp] using hq
      exact h.elim (fun h => h hc.2.1) (fun h => h hc.2.2)
  · rfl

theorem State.reportSlot_frame (s : State) (i : SlotNo) (g : BitVec 4) :
    s.reportSlot i g = { s with slots := (s.reportSlot i g).slots } := by
  unfold State.reportSlot
  dsimp only
  (repeat' split) <;> rfl

theorem State.reportProbe_frame (s : State) (number : BitVec 8) :
    s.reportProbe number = { s with probe := (s.reportProbe number).probe } := by
  unfold State.reportProbe
  (repeat' split) <;> rfl

/-- A report changes the slots and the probe record alone. -/
theorem State.reportInsertion_frame (s : State) (f : List Byte) :
    s.reportInsertion f =
      { s with slots := (s.reportInsertion f).slots, probe := (s.reportInsertion f).probe } := by
  unfold State.reportInsertion
  split
  · rw [State.reportProbe_frame]
  · split
    · rfl
    · rw [State.reportSlot_frame]
  · split
    · rfl
    · rw [State.reportSlot_frame]
  · rw [State.reportSlot_frame]
  · rfl

theorem State.reportInsertion_of_tracked {s : State} {f : List Byte}
    (h : Frame.kind f = .request ∨ ((Frame.kind f = .full ∨ Frame.kind f = .delta) ∧ Frame.untracked f = false)) :
    s.reportInsertion f = s.reportSlot (Frame.slot f) (Frame.generation f) := by
  unfold State.reportInsertion
  rcases h with h | ⟨h | h, hu⟩ <;> simp [*]

theorem State.reportInsertion_of_probe {s : State} {f : List Byte} (h : Frame.kind f = .probe) :
    s.reportInsertion f = s.reportProbe (Frame.tag f) := by
  simp [State.reportInsertion, h]

/-- A report that is not of a probe leaves the probe record (R80, R145). -/
theorem State.reportInsertion_probe {s : State} {f : List Byte} (h : Frame.kind f ≠ .probe) :
    (s.reportInsertion f).probe = s.probe := by
  unfold State.reportInsertion
  split
  · next hk => exact absurd hk h
  · split
    · rfl
    · rw [State.reportSlot_frame]
  · split
    · rfl
    · rw [State.reportSlot_frame]
  · rw [State.reportSlot_frame]
  · rfl

/-- A report that is not of a tracked frame leaves the slots (R80, R145). -/
theorem State.reportInsertion_slots {s : State} {f : List Byte}
    (h : ¬ (Frame.kind f = .request ∨ ((Frame.kind f = .full ∨ Frame.kind f = .delta) ∧ Frame.untracked f = false))) :
    (s.reportInsertion f).slots = s.slots := by
  unfold State.reportInsertion
  split
  · rw [State.reportProbe_frame]
  · split
    · rfl
    · simp_all
  · split
    · rfl
    · simp_all
  · simp_all
  · rfl

/-- The END of an own insertion, its report aside: the place is empty (R145). -/
def State.inserted (s : State) : State := { s with sending := .idle, place := none }

theorem exec_insertionComplete_of_own {s : State} {f : List Byte} (hs : s.sending = .own) (hp : s.place = some f) :
    exec .insertionComplete s = .next (s.inserted.reportInsertion f) := by
  simp [exec, execInsertionComplete, hs, hp, State.inserted]

/-- Settles O37: each report is one of `State.reportSlot`, `State.reportProbe` or none, by the kind of the frame. -/
theorem insertionCompleteReports : Obligations.InsertionCompleteReports := by
  unfold Obligations.InsertionCompleteReports
  intro s f hsending hplace
  refine ⟨_, exec_insertionComplete_of_own hsending hplace, State.reportInsertion_frame _ f,
    fun u hkind hu hg hdue hdeadline => ?_, fun hcases => ?_, fun p hkind hp hactive hnumber hdeadline => ?_,
    fun hcases => ?_⟩
  · rw [State.reportInsertion_of_tracked hkind, State.reportSlot_sets (s := s.inserted) hu hg hdue hdeadline]
    exact ⟨State.slot_setSlot_same _ _ _, fun j hj => State.slot_setSlot_other _ _ hj⟩
  · by_cases htracked :
        Frame.kind f = .request ∨ ((Frame.kind f = .full ∨ Frame.kind f = .delta) ∧ Frame.untracked f = false)
    · have hunasked : (s.slot (Frame.slot f)).use = none ∨ ∃ u, (s.slot (Frame.slot f)).use = some u
          ∧ (Frame.generation f ≠ (s.slot (Frame.slot f)).generation - 1 ∨ u.due ≠ none ∨ u.deadline ≠ none) := by
        rcases hcases with h | h | ⟨hk | hk, h⟩ | h <;> simp_all
      rw [State.reportInsertion_of_tracked htracked, State.reportSlot_of_unasked (s := s.inserted) hunasked]
      rfl
    · rw [State.reportInsertion_slots htracked]
      rfl
  · rw [State.reportInsertion_of_probe hkind, ← hnumber, State.reportProbe_sets (s := s.inserted) hp hactive hdeadline]
    rfl
  · by_cases hkind : Frame.kind f = .probe
    · rw [State.reportInsertion_of_probe hkind,
        State.reportProbe_of_unasked (s := s.inserted) (hcases.resolve_left (absurd hkind))]
      rfl
    · rw [State.reportInsertion_probe hkind]
      rfl

end Sys2Proof.Machine

/-! # The Framer's choice: precedence, and the REQUESTs it builds -/

namespace Sys2Proof.Machine

/-! ## The transmission that became due first -/

/-- Of the slot found so far and a further one, the one whose transmission became due first (R59). -/
def State.earlier (s : State) (best : Option SlotNo) (i : SlotNo) : Option SlotNo :=
  match best, s.dueOrder i with
  | none, some _ => some i
  | some b, some o => if (s.dueOrder b).any (o < ·) then some i else some b
  | best, none => best

theorem State.firstDue_eq_foldl (s : State) : s.firstDue = allSlots.foldl s.earlier none := rfl

/-- No transmission of another slot became due before that of the slot (R59). -/
def State.DueBeforeAll (s : State) (i : SlotNo) : Prop :=
  ∃ o, s.dueOrder i = some o ∧ ∀ j e, j ≠ i → s.dueOrder j = some e → o < e

theorem State.dueOrder_eq_some_iff {s : State} {i : SlotNo} {o : Nat} :
    s.dueOrder i = some o ↔ ∃ u d, (s.slot i).use = some u ∧ u.due = some d ∧ d.order = o := by
  simp [State.dueOrder, Option.bind_eq_some_iff]

theorem FirstDue.dueBeforeAll {s : State} {i : SlotNo} {u : SlotUse} {d : Due} (h : FirstDue s i u d) :
    s.DueBeforeAll i := by
  obtain ⟨hu, hd, hfirst⟩ := h
  refine ⟨d.order, State.dueOrder_eq_some_iff.2 ⟨u, d, hu, hd, rfl⟩, fun j e hj he => ?_⟩
  obtain ⟨v, d', hv, hd', rfl⟩ := State.dueOrder_eq_some_iff.1 he
  exact hfirst j v d' hj hv hd'

namespace State.DueBeforeAll

variable {s : State} {i : SlotNo} (h : s.DueBeforeAll i)
include h

/-- The first slot is not displaced. -/
theorem earlier_self (j : SlotNo) : s.earlier (some i) j = some i := by
  obtain ⟨o, ho, hfirst⟩ := h
  unfold State.earlier
  cases hj : s.dueOrder j with
  | none => rfl
  | some e =>
    have hle : o ≤ e := by
      by_cases hji : j = i
      · subst hji
        simp_all
      · exact (hfirst j e hji hj).le
    simp [ho, hle]

/-- The first slot displaces every slot that has a transmission due. -/
theorem earlier_other {best : Option SlotNo} (hbest : ∀ b, best = some b → (s.dueOrder b).isSome = true) :
    s.earlier best i = some i := by
  obtain ⟨o, ho, hfirst⟩ := h
  unfold State.earlier
  cases best with
  | none => simp [ho]
  | some b =>
    obtain ⟨e, he⟩ := Option.isSome_iff_exists.1 (hbest b rfl)
    by_cases hb : b = i
    · simp [ho, hb]
    · simp [ho, he, hfirst b e hb he]

theorem foldl_self (l : List SlotNo) : l.foldl s.earlier (some i) = some i := by
  induction l with
  | nil => rfl
  | cons j l ih => rw [List.foldl_cons, h.earlier_self, ih]

omit h in
/-- The slot found so far always has a transmission due. -/
theorem isSome_earlier {best : Option SlotNo} (hbest : ∀ b, best = some b → (s.dueOrder b).isSome = true) (j : SlotNo) :
    ∀ b, s.earlier best j = some b → (s.dueOrder b).isSome = true := by
  unfold State.earlier
  intro b hb
  split at hb
  · next o ho => cases hb; simp [ho]
  · next c o ho =>
    split at hb
    · cases hb; simp [ho]
    · cases hb; exact hbest _ rfl
  · exact hbest b hb

theorem foldl_of_mem (l : List SlotNo) (hl : i ∈ l) {best : Option SlotNo}
    (hbest : ∀ b, best = some b → (s.dueOrder b).isSome = true) : l.foldl s.earlier best = some i := by
  induction l generalizing best with
  | nil => cases hl
  | cons j l ih =>
    rw [List.foldl_cons]
    rcases List.mem_cons.1 hl with rfl | hl
    · rw [h.earlier_other hbest, h.foldl_self]
    · exact ih hl (isSome_earlier hbest j)

/-- The Framer serves the transmission that became due first (R59). -/
theorem firstDue_eq : s.firstDue = some i := by
  rw [State.firstDue_eq_foldl]
  exact h.foldl_of_mem allSlots (mem_allSlots i) (by simp)

end State.DueBeforeAll

section
variable {s : State}

/-! ## The choice by precedence -/

theorem exec_framerChoice_of_free (hplace : s.place = none) (hbuild : s.build = none) :
    exec .framerChoice s = .next s.choose := by
  simp [exec, execFramerChoice, hplace, hbuild]

theorem State.choose_of_due (h : ChoosesPastProbe s) {i : SlotNo} (hi : s.DueBeforeAll i) : s.choose = s.serveDue i := by
  obtain ⟨-, -, hstation, hprobe⟩ := h
  simp [State.choose, State.probeReady, hprobe, hstation, hi.firstDue_eq]

theorem State.choose_of_answer (h : ChoosesPastProbe s) (hdue : NoneDue s) (hanswers : s.answerQueue ≠ []) :
    s.choose = { s with build := some .answer } := by
  obtain ⟨-, -, hstation, hprobe⟩ := h
  simp [State.choose, State.probeReady, hprobe, hstation, State.firstDue_of_noneDue hdue, hanswers]

/-- The line asked for next, and the slot it is asked on (R59, R61). -/
theorem RequestReady.serves {e : RepairEntry} {i : SlotNo} (h : RequestReady s e i) :
    s.repairLine = some e.line ∧ s.lowestFree = some i := by
  obtain ⟨⟨before, after, hlist, hunasked, hbefore⟩, hfree⟩ := h
  refine ⟨?_, State.lowestFree_eq_some.2 hfree⟩
  rw [State.repairLine, Option.map_eq_some_iff]
  refine ⟨e, List.find?_eq_some_iff_append.2 ⟨State.serves_iff_unasked.2 hunasked, before, after, hlist, fun x hx => ?_⟩, rfl⟩
  rw [Bool.not_eq_true', ← Bool.not_eq_true, State.serves_iff_unasked]
  exact hbefore x hx

/-- The post built next, and that it finds a slot (R56, R61). -/
theorem PostReady.serves {l : Nat} (h : PostReady s l) : s.oldestPost = some l ∧ ∃ i, s.updateSlotFor = some i := by
  obtain ⟨⟨before, after, hlist, hposted, hbefore⟩, hroom, i, hi⟩ := h
  refine ⟨List.find?_eq_some_iff_append.2 ⟨Pending.isPosted_iff.2 hposted, before, after, hlist, fun x hx => ?_⟩, ?_⟩
  · rw [Bool.not_eq_true', ← Bool.not_eq_true, Pending.isPosted_iff]
    exact hbefore x hx
  · refine Option.ne_none_iff_exists'.1 fun hnone => ?_
    exact (State.updateSlotFor_eq_none.1 hnone).elim (fun hfull => absurd hroom (Nat.not_lt.2 hfull)) fun hused => hused i hi

theorem State.choose_of_request (h : ChoosesPastProbe s) (hdue : NoneDue s) (hanswers : s.answerQueue = [])
    {e : RepairEntry} {i : SlotNo} (hrequest : RequestReady s e i) : s.choose = s.buildFirstRequest i e.line := by
  obtain ⟨-, -, hstation, hprobe⟩ := h
  obtain ⟨hline, hslot⟩ := hrequest.serves
  simp [State.choose, State.probeReady, hprobe, hstation, State.firstDue_of_noneDue hdue, hanswers, hline, hslot]

theorem State.choose_of_post (h : ChoosesPastProbe s) (hdue : NoneDue s) (hanswers : s.answerQueue = [])
    (hrequest : NoRequestReady s) {l : Nat} (hpost : PostReady s l) : s.choose = { s with build := some (.post l) } := by
  obtain ⟨-, -, hstation, hprobe⟩ := h
  obtain ⟨hline, i, hslot⟩ := hpost.serves
  simp only [State.choose, State.probeReady, hprobe, hstation, State.firstDue_of_noneDue hdue, hanswers]
  obtain hnone | hnone := State.noRequestReady_iff.1 hrequest <;> simp [hnone, hline, hslot]

theorem State.choose_of_none (h : ChoosesPastProbe s) (hdue : NoneDue s) (hanswers : s.answerQueue = [])
    (hrequest : NoRequestReady s) (hpost : NoPostReady s) (hsweep : s.sweep.due = false) : s.choose = s := by
  obtain ⟨-, -, hstation, hprobe⟩ := h
  simp only [State.choose, State.probeReady, hprobe, hstation, State.firstDue_of_noneDue hdue, hanswers, hsweep]
  obtain hnone | hnone := State.noRequestReady_iff.1 hrequest
  · obtain hp | hp := State.noPostReady_iff.1 hpost <;> simp [hnone, hp]
  · obtain hp | hp := State.noPostReady_iff.1 hpost <;> simp [hnone, hp]

/-- Outside ONLINE only a probe is served (R58). -/
theorem State.choose_of_not_online (hstation : s.station ≠ .online)
    (hprobe : s.probe.due = false ∨ s.station.isActive = false) : s.choose = s := by
  have hready : s.probeReady = false := by
    rw [State.probeReady, Bool.and_eq_false_iff]
    exact hprobe
  simp [State.choose, hready, hstation]

/-- An update that is due waits for its fetch (R59, R68, R69). -/
theorem State.serveDue_of_update {i : SlotNo} {u : SlotUse} {d : Due} (hu : (s.slot i).use = some u)
    (hd : u.due = some d) :
    ((d.kind = .mend ∨ d.kind = .resend) → s.serveDue i = { s with build := some (.mendResend i) })
      ∧ (d.kind = .replacement → s.serveDue i = { s with build := some (.replacement i) }) := by
  refine ⟨fun hkind => ?_, fun hkind => ?_⟩
  · rcases hkind with hkind | hkind <;> simp [State.serveDue, hu, hd, hkind]
  · simp [State.serveDue, hu, hd, hkind]

/-- A retry that is due is built in the choice (R59, R72). -/
theorem State.serveDue_of_retry {i : SlotNo} {u : SlotUse} {d : Due} (hu : (s.slot i).use = some u)
    (hd : u.due = some d) (hkind : d.kind = .retry) : s.serveDue i = s.buildRetry i u := by
  simp [State.serveDue, hu, hd, hkind]

end

/-- Settles O41: the sources in their order, each chosen when those before it have nothing ready. -/
theorem framerChoosesByPrecedence : Obligations.FramerChoosesByPrecedence := by
  unfold Obligations.FramerChoosesByPrecedence
  refine ⟨fun s hplace hbuild hstation hprobe => ?_, fun s hbusy => ?_, fun s h => ?_⟩
  · rw [exec_framerChoice_of_free hplace hbuild, State.choose_of_not_online hstation hprobe]
  · have hbusy : ¬ (s.place.isNone && s.build.isNone) = true := by
      simpa [Classical.or_iff_not_imp_left] using hbusy
    simp [exec, execFramerChoice, hbusy]
  · rw [exec_framerChoice_of_chooses h]
    refine ⟨fun i u d hfirst hkind => ?_, fun i u d hfirst hkind => ?_, fun hdue hanswers => ?_,
      fun l hdue hanswers hrequest hpost => ?_, fun hdue hanswers hrequest hpost hsweep => ?_⟩
    · rw [State.choose_of_due h hfirst.dueBeforeAll, (State.serveDue_of_update hfirst.1 hfirst.2.1).1 hkind]
    · rw [State.choose_of_due h hfirst.dueBeforeAll, (State.serveDue_of_update hfirst.1 hfirst.2.1).2 hkind]
    · rw [State.choose_of_answer h hdue hanswers]
    · rw [State.choose_of_post h hdue hanswers hrequest hpost]
    · rw [State.choose_of_none h hdue hanswers hrequest hpost hsweep]

/-! ## REQUESTs -/

/-- A REQUEST is handed over with its slot's tag, and the slot's generation advances (R62 to R64, R72). -/
theorem State.buildRequest_eq {s : State} (h : ChoosesPastProbe s) (i : SlotNo) (u : SlotUse) :
    s.buildRequest i u =
        { s with slots := (s.buildRequest i u).slots, place := some (ownRequest s i u.line u.stamp) }
      ∧ OnlySlot s (s.buildRequest i u) i
          ⟨(s.slot i).generation + 1, some { u with due := none, deadline := none }⟩ := by
  obtain ⟨-, hbuild, -, -⟩ := h
  refine ⟨?_, State.slot_setSlot_same _ _ _, fun j hj => State.slot_setSlot_other _ _ hj⟩
  simp only [State.buildRequest, State.handOver, ← hbuild]
  rfl

/-- Settles O42: a first REQUEST and a retry are built alike, from a new use of the slot and from its own. -/
theorem requestsAreBuiltInTheChoice : Obligations.RequestsAreBuiltInTheChoice := by
  unfold Obligations.RequestsAreBuiltInTheChoice
  intro s h
  rw [exec_framerChoice_of_chooses h]
  refine ⟨fun e i hdue hanswers hrequest => ⟨_, rfl, ?_⟩, fun i u d hfirst hkind => ⟨_, rfl, ?_⟩⟩
  · rw [State.choose_of_request h hdue hanswers hrequest]
    exact State.buildRequest_eq h i _
  · rw [State.choose_of_due h hfirst.dueBeforeAll, State.serveDue_of_retry hfirst.1 hfirst.2.1 hkind]
    exact State.buildRequest_eq h i _

end Sys2Proof.Machine

/-! # The decision on updates: discards, heals, raises, and updates that are missed -/

namespace Sys2Proof.Machine

/-! ## Frames that are dropped -/

/-- A frame received whole that is no good, malformed, or a peer's with its budget spent, goes no further (R133 to R135). -/
theorem State.routeFrame_of_dropped {s : State} {f : List Byte} (sent : Nat)
    (h : Frame.checkGood f = false ∨ Frame.malformed f = true
      ∨ (Frame.origin f ≠ s.config.stationNumber ∧ Frame.budget f = 0)) : s.routeFrame f sent = s := by
  unfold State.routeFrame
  rcases h with h | h | ⟨horigin, hbudget⟩
  · simp [h]
  · simp [h]
  · simp [horigin, hbudget]

theorem exec_frameReceivedWhole_of_receiving {s : State} {f : List Byte} (sent : Nat) (hreceives : s.receives = true)
    (hreceiving : s.receiving = true) (hlength : f.length ≤ 58) :
    exec (.frameReceivedWhole f sent) s = .next (s.endReception.routeFrame f sent) := by
  simp [exec, execFrameReceivedWhole, hreceives, hreceiving, hlength, State.endReception]

/-! ## Frames that are forwarded -/

/-- The action on a peer's frame, when it leaves the Bypass FIFO and what is being sent, is followed by its forwarded copy. -/
theorem exec_frameReceivedWhole_of_acted {s t : State} {f : List Byte} {m : Marks} (sent : Nat) (h : ToActOn s f)
    (hact : s.endReception.act f = (t, m)) (hfifo : t.fifo = s.fifo) (hsending : t.sending = s.sending)
    (hlen : (Frame.forwarded f m).length = f.length) :
    ∃ x, exec (.frameReceivedWhole f sent) s = .next x ∧ x = { t with fifo := x.fifo, sending := x.sending }
      ∧ ForwardsCopy s x f m sent := by
  refine ⟨_, exec_frameReceivedWhole_of_act sent h, ?_⟩
  rw [hact]
  exact ⟨State.enterFifo_frame _ _ _, State.enterFifo_forwards hfifo hsending hlen sent⟩

theorem ToActOn.length {s : State} {f : List Byte} (h : ToActOn s f) : 8 ≤ f.length := by
  obtain ⟨-, -, -, hgood, -⟩ := h
  exact Frame.length_of_checkGood hgood

/-- A copy with a presence mark has the length of its frame too: the map is replaced by its four bytes (R141, R165). -/
theorem Frame.length_forwarded {f : List Byte} {m : Marks} (hf : 2 ≤ f.length)
    (hm : m.presence ≠ none → f.length = 14) : (Frame.forwarded f m).length = f.length := by
  cases hp : m.presence with
  | none => exact Frame.length_forwarded_of_noPresence hf hp
  | some n =>
    have hlen : f.length = 14 := hm (by simp [hp])
    simp [Frame.forwarded, hp, Frame.seal, Frame.halfBytes, Frame.wordBytes, hlen]

theorem Frame.length_of_probe {f : List Byte} (h : Frame.malformed f = false) (hk : Frame.kind f = .probe) :
    f.length = 14 := by
  simpa [Frame.malformed, hk] using h

/-- Nothing is decided on a frame of unknown kind, a PROBE, a REQUEST that arrives ANSWERED, or a frame that names a line
beyond the window (R1, R23, R108, R135). -/
theorem State.act_of_alone {s : State} {f : List Byte}
    (h : Frame.kind f = .unknown ∨ Frame.kind f = .probe ∨ (Frame.kind f = .request ∧ Frame.answered f = true)
      ∨ s.inWindow (Frame.line f) = false) :
    s.act f = (s, ⟨false, false, if Frame.kind f = .probe then some s.config.stationNumber else none⟩) := by
  unfold State.act
  rcases h with h | h | ⟨h, hanswered⟩ | h
  · simp [h]
  · simp [h]
  · simp [h, hanswered]
  · cases hk : Frame.kind f <;> simp [h]

/-- Settles O24: nothing is decided on the frames of the second part, and only a PROBE's copy is marked. -/
theorem framesThatAreDroppedOrForwardedAlone : Obligations.FramesThatAreDroppedOrForwardedAlone := by
  unfold Obligations.FramesThatAreDroppedOrForwardedAlone
  refine ⟨fun s f sent hreceives hreceiving hlength hdropped => ?_, fun s f sent hact hcases => ?_⟩
  · rw [exec_frameReceivedWhole_of_receiving sent hreceives hreceiving hlength,
      State.routeFrame_of_dropped sent (s := s.endReception) hdropped]
    rfl
  · have hmalformed : Frame.malformed f = false := by
      obtain ⟨-, -, -, -, h, -⟩ := hact
      exact h
    refine exec_frameReceivedWhole_of_acted sent hact (State.act_of_alone (s := s.endReception) hcases) rfl rfl (Frame.length_forwarded ?_ fun hm => ?_)
    · have := hact.length
      omega
    · exact Frame.length_of_probe hmalformed (by simpa using hm)

/-! ## An update and its decision -/

section
variable {s : State} {f : List Byte} {k : UpdateKind}

theorem Frame.update_eq (f : List Byte) (k : UpdateKind) :
    (Frame.update f k).kind = k ∧ (Frame.update f k).line = Frame.line f ∧ (Frame.update f k).stamp = Frame.stamp f
      ∧ (Frame.update f k).mask = frameMask f k ∧ (Frame.update f k).data = frameData f k
      ∧ (k = .delta → (Frame.update f k).base = Frame.baseStamp f) := by
  cases k <;> simp [Frame.update, frameMask, frameData]

/-- An update within the window is decided on, and its copy leaves with MISSED as decided (R23, R135). -/
theorem UpdateFor.act_eq (h : UpdateFor s f k) :
    s.endReception.act f =
      ((s.endReception.decideUpdate (Frame.update f k)).1,
        ⟨(s.endReception.decideUpdate (Frame.update f k)).2, false, none⟩) := by
  obtain ⟨-, hwindow, hkind⟩ := h
  have hwindow : s.endReception.inWindow (Frame.line f) = true := hwindow
  cases k <;> simp [State.act, hkind, hwindow]

/-- The step of an update, by the state and the MISSED mark that its decision gives. -/
theorem UpdateFor.exec_eq (h : UpdateFor s f k) (sent : Nat) {t : State} {missed : Bool}
    (hdecide : s.endReception.decideUpdate (Frame.update f k) = (t, missed)) (hfifo : t.fifo = s.fifo)
    (hsending : t.sending = s.sending) :
    ∃ x, exec (.frameReceivedWhole f sent) s = .next x ∧ x = { t with fifo := x.fifo, sending := x.sending }
      ∧ ForwardsCopy s x f ⟨missed, false, none⟩ sent := by
  have hlength := h.1.length
  refine exec_frameReceivedWhole_of_acted sent h.1 ?_ hfifo hsending
    (Frame.length_forwarded_of_noPresence (by omega) rfl)
  rw [h.act_eq, hdecide]

end

/-! ## What is decided -/

namespace State

section
variable {s : State} {u : Update}

theorem covered_iff {line : Nat} :
    s.covered line = true ↔
      ∃ e ∈ s.applyQueue, e.line = line ∧ e.kind = .full ∧ e.stamp = (s.lineRec line).stamp := by
  simp [covered, and_assoc]

/-- An older update, and one that brings nothing new, are discarded (R25, R26). -/
theorem decideUpdate_of_discarded
    (h : (s.lineRec u.line).stamp.newer u.stamp = true
      ∨ (u.stamp = (s.lineRec u.line).stamp ∧ ((s.lineRec u.line).content = .valid ∨ s.covered u.line = true))) :
    s.decideUpdate u = (s, false) := by
  unfold decideUpdate
  rcases h with hold | ⟨heq, hknown⟩
  · have hnot : u.stamp ≠ (s.lineRec u.line).stamp := fun he => by
      rw [he, Stamp.newer_irrefl] at hold
      cases hold
    simp [Stamp.newer_asymm hold, hnot]
  · simp [heq, Stamp.newer_irrefl, hknown]

/-- At the current stamp of a line that is neither VALID nor covered, a FULL heals it while the Apply Queue has room, and
every other update is missed (R27, R28, R32). -/
theorem decideUpdate_of_untrusted (hstamp : u.stamp = (s.lineRec u.line).stamp)
    (hcontent : (s.lineRec u.line).content ≠ .valid) (hcovered : s.covered u.line = false) :
    s.decideUpdate u = if u.kind = .full ∧ s.applyQueue.length < 8 then (s.queueApply u .heal, false) else (s, true) := by
  unfold decideUpdate
  cases hk : u.kind with
  | full =>
    by_cases hroom : 8 ≤ s.applyQueue.length
    · simp [hstamp, Stamp.newer_irrefl, hcontent, hcovered, applyFullHouse, hroom, Nat.not_lt.2 hroom]
    · simp [hstamp, Stamp.newer_irrefl, hcontent, hcovered, applyFullHouse, hroom, Nat.not_le.1 hroom]
  | delta => simp [hstamp, Stamp.newer_irrefl, hcontent, hcovered]

/-- Whether a newer update's bytes can be taken: there is room, and a DELTA fits the line (R29 to R32). -/
def TakesBytes (s : State) (u : Update) : Prop :=
  s.applyQueue.length < 8
    ∧ (u.kind = .full ∨ ((s.lineRec u.line).content = .valid ∧ u.base = (s.lineRec u.line).stamp))

theorem decideUpdate_of_taken (hnewer : u.stamp.newer (s.lineRec u.line).stamp = true) (h : s.TakesBytes u) :
    s.decideUpdate u = (s.raiseAndQueue u, false) := by
  obtain ⟨hroom, hfits⟩ := h
  have hhouse : s.applyFullHouse = false := by simpa [applyFullHouse] using hroom
  unfold decideUpdate
  cases hk : u.kind with
  | full => simp [hnewer, hhouse]
  | delta =>
    have hfits : (s.lineRec u.line).content = .valid ∧ u.base = (s.lineRec u.line).stamp :=
      hfits.resolve_left (by simp [hk])
    simp [hnewer, hhouse, hfits]

theorem decideUpdate_of_missed (hnewer : u.stamp.newer (s.lineRec u.line).stamp = true) (h : ¬ s.TakesBytes u) :
    s.decideUpdate u = (s.raiseStale u, true) := by
  unfold decideUpdate
  cases hk : u.kind with
  | full =>
    have hhouse : s.applyFullHouse = true := by simpa [TakesBytes, hk, applyFullHouse] using h
    simp [hnewer, hhouse]
  | delta =>
    by_cases hfits : (s.lineRec u.line).content = .valid ∧ u.base = (s.lineRec u.line).stamp
    · have hhouse : s.applyFullHouse = true := by simpa [TakesBytes, hk, hfits, applyFullHouse] using h
      simp [hnewer, hhouse]
    · simp [hnewer, hfits]

/-! ## What a raise does -/

theorem supersededPending_eq (p : Pending) : supersededPending p = (p.afterRaise, p.losesToRaise) := by
  cases p <;> rfl

/-- SUPERSEDED for the station's own work that a raise takes (R42 to R44). -/
def supersedes (s : State) (u : Update) : List Notice :=
  if (s.lineRec u.line).pending.losesToRaise = true then [.superseded u.line u.stamp.writer] else []

theorem lineRec_queueApply (s : State) (u : Update) (cause : ApplyCause) (l : Nat) :
    (s.queueApply u cause).lineRec l =
      if l = u.line then { s.lineRec u.line with applyPending := true } else s.lineRec l :=
  s.lineRec_setRec u.line l _

theorem lineRec_raiseRec (s : State) (u : Update) (content : Content) (l : Nat) :
    (s.raiseRec u content).lineRec l =
      if l = u.line then
        { s.lineRec u.line with
          stamp := u.stamp, content, pending := (s.lineRec u.line).pending.afterRaise }
      else s.lineRec l := by
  have hpending : (supersededPending (s.lineRec u.line).pending).1 = (s.lineRec u.line).pending.afterRaise := by
    rw [supersededPending_eq]
  rw [← hpending]
  exact s.lineRec_setRec u.line l _

/-- A raise whose apply is queued, its notices and the drain aside (R29, R30). -/
def raisedAndQueued (s : State) (u : Update) : State := (s.raiseRec u (s.lineRec u.line).content).queueApply u .raise

theorem raisedAndQueued_frame (s : State) (u : Update) :
    s.raisedAndQueued u =
      { s with
        lines := (s.raisedAndQueued u).lines
        postList := s.postList.filter (· != u.line)
        applyQueue := s.applyQueue ++ [⟨u.line, .raise, u.kind, u.stamp, u.mask, u.data⟩] } := rfl

theorem onlyRecord_raisedAndQueued (s : State) (u : Update) :
    OnlyRecord s (s.raisedAndQueued u) u.line
      { s.lineRec u.line with
        stamp := u.stamp, applyPending := true, pending := (s.lineRec u.line).pending.afterRaise } := by
  unfold raisedAndQueued
  refine ⟨?_, fun l hl => ?_⟩
  · rw [lineRec_queueApply, if_pos rfl, lineRec_raiseRec, if_pos rfl]
  · rw [lineRec_queueApply, if_neg hl, lineRec_raiseRec, if_neg hl]

theorem raiseAndQueue_eq (s : State) (u : Update) :
    s.raiseAndQueue u =
      ((s.supersedes u).foldl give (s.raisedAndQueued u)).drainTest := by
  unfold raiseAndQueue raisedAndQueued supersedes
  dsimp only
  rw [supersededPending_eq]
  cases (s.lineRec u.line).pending.losesToRaise <;> rfl

/-- What a raise whose apply is queued leaves (R29, R30, R42 to R44, R195). -/
theorem raiseAndQueue_spec (s : State) (u : Update) :
    s.raiseAndQueue u =
        { s with
          lines := (s.raiseAndQueue u).lines
          postList := s.postList.filter (· != u.line)
          applyQueue := s.applyQueue ++ [⟨u.line, .raise, u.kind, u.stamp, u.mask, u.data⟩]
          notices := (s.raiseAndQueue u).notices, drainPending := (s.raiseAndQueue u).drainPending }
      ∧ OnlyRecord s (s.raiseAndQueue u) u.line
          { s.lineRec u.line with
            stamp := u.stamp, applyPending := true, pending := (s.lineRec u.line).pending.afterRaise }
      ∧ GivesAndDrains s (s.raiseAndQueue u) (s.supersedes u) := by
  have hframe := s.raisedAndQueued_frame u
  obtain ⟨hsame, hother⟩ := s.onlyRecord_raisedAndQueued u
  rw [raiseAndQueue_eq, giveAll_frame]
  generalize s.raisedAndQueued u = q at hframe hsame hother ⊢
  refine ⟨?_, ⟨?_, fun l hl => ?_⟩, givesAndDrains_drainTest (by rw [hframe]) (by rw [hframe])⟩
  · refine (drainTest_frame _).trans ?_
    rw [drainTest_lines]
    generalize drainTest _ = t
    rw [hframe]
  · rw [drainTest_lineRec]
    exact hsame
  · rw [drainTest_lineRec]
    exact hother l hl

/-! ## What a missed update does -/

/-- FOREIGN MISSED for a watched line (R47). -/
def reportsMissed (s : State) (u : Update) : List Notice :=
  if (s.lineRec u.line).watched = true then [.foreign u.line u.stamp.writer .missed] else []

/-- A missed raise, its notices and the drain aside (R31, R46). -/
def raisedAndListed (s : State) (u : Update) : State := (s.raiseRec u .stale).listLine u.line

theorem raisedAndListed_frame (s : State) (u : Update) :
    s.raisedAndListed u =
      { s with
        lines := (s.raisedAndListed u).lines
        postList := s.postList.filter (· != u.line)
        repairList :=
          if (s.lineRec u.line).listed = true ∨ 32 ≤ s.repairList.length then s.repairList
          else s.repairList ++ [⟨u.line, s.now⟩] } := by
  have hlisted : ((s.raiseRec u .stale).lineRec u.line).listed = (s.lineRec u.line).listed := by
    rw [lineRec_raiseRec, if_pos rfl]
  have hlist := (s.raiseRec u .stale).listLine_repairList u.line
  rw [hlisted] at hlist
  unfold raisedAndListed
  rw [listLine_frame, hlist]
  rfl

theorem onlyRecord_raisedAndListed (s : State) (u : Update) :
    OnlyRecord s (s.raisedAndListed u) u.line
      { s.lineRec u.line with
        stamp := u.stamp, content := .stale, pending := (s.lineRec u.line).pending.afterRaise
        listed := (s.lineRec u.line).listed || decide (s.repairList.length < 32) } := by
  unfold raisedAndListed
  refine ⟨?_, fun l hl => ?_⟩
  · rw [listLine_rec, lineRec_raiseRec, if_pos rfl, raiseRec_repairList]
  · rw [lineRec_listLine_other _ hl, lineRec_raiseRec, if_neg hl]

/-- The notices of a missed raise, in the order that is taken (R190; log 10). -/
theorem raiseStale_eq (s : State) (u : Update) :
    ∃ ns count, ns.Perm (s.supersedes u ++ s.reportsMissed u)
      ∧ s.raiseStale u = ({ s.raisedAndListed u with notices := noticesAfter s.notices ns, freeCount := count }).drainTest := by
  have hframe := s.raisedAndListed_frame u
  unfold raiseStale supersedes reportsMissed
  dsimp only
  rw [supersededPending_eq, ← raisedAndListed]
  generalize s.raisedAndListed u = t at hframe ⊢
  have hnotices : t.notices = s.notices := by rw [hframe]
  cases (s.lineRec u.line).pending.losesToRaise <;> cases (s.lineRec u.line).watched
  · exact ⟨[], t.freeCount, .refl _, by rw [← hnotices]; rfl⟩
  · exact ⟨[_], t.freeCount, .refl _, by rw [← hnotices]; rfl⟩
  · exact ⟨[_], t.freeCount, .refl _, by rw [← hnotices]; rfl⟩
  · dsimp only
    rw [giveBoth_frame]
    rcases t.giveBoth_notices (.superseded u.line u.stamp.writer) (.foreign u.line u.stamp.writer .missed) with h | h
    · exact ⟨[_, _], _, .refl _, by rw [h, ← hnotices]; rfl⟩
    · exact ⟨[_, _], _, .swap _ _ _, by rw [h, ← hnotices]; rfl⟩

/-- What a missed raise leaves (R31, R32, R42 to R44, R46, R47, R195). -/
theorem raiseStale_spec (s : State) (u : Update) :
    s.raiseStale u =
        { s with
          lines := (s.raiseStale u).lines, freeCount := (s.raiseStale u).freeCount
          postList := s.postList.filter (· != u.line)
          repairList :=
            if (s.lineRec u.line).listed = true ∨ 32 ≤ s.repairList.length then s.repairList
            else s.repairList ++ [⟨u.line, s.now⟩]
          notices := (s.raiseStale u).notices, drainPending := (s.raiseStale u).drainPending }
      ∧ OnlyRecord s (s.raiseStale u) u.line
          { s.lineRec u.line with
            stamp := u.stamp, content := .stale, pending := (s.lineRec u.line).pending.afterRaise
            listed := (s.lineRec u.line).listed || decide (s.repairList.length < 32) }
      ∧ ∃ ns, ns.Perm (s.supersedes u ++ s.reportsMissed u) ∧ GivesAndDrains s (s.raiseStale u) ns := by
  have hframe := s.raisedAndListed_frame u
  obtain ⟨hsame, hother⟩ := s.onlyRecord_raisedAndListed u
  obtain ⟨ns, count, hperm, heq⟩ := s.raiseStale_eq u
  rw [heq]
  generalize s.raisedAndListed u = q at hframe hsame hother ⊢
  refine ⟨?_, ⟨?_, fun l hl => ?_⟩, ns, hperm, givesAndDrains_drainTest rfl (by rw [hframe])⟩
  · refine (drainTest_frame _).trans ?_
    rw [drainTest_lines, drainTest_freeCount]
    generalize drainTest _ = t
    rw [hframe]
  · rw [drainTest_lineRec]
    exact hsame
  · rw [drainTest_lineRec]
    exact hother l hl

end
end State
end Sys2Proof.Machine

/-! # Updates received whole, from the decision to the forwarded copy -/

namespace Sys2Proof.Machine

section
variable {s t x : State}

/-! ## What the forwarded copy leaves -/

/-- The states differ in the Bypass FIFO and in what ring-out sends alone. -/
def CopyMoves (t x : State) : Prop := x = { t with fifo := x.fifo, sending := x.sending }

theorem CopyMoves.onlyRecord (hx : CopyMoves t x) {l : Nat} {r : LineRecord} (h : OnlyRecord s t l r) :
    OnlyRecord s x l r := by
  have hlines : x.lines = t.lines := by rw [hx]
  simpa [OnlyRecord, State.lineRec_congr hlines] using h

theorem CopyMoves.givesAndDrains (hx : CopyMoves t x) {ns : List Notice} (h : GivesAndDrains s t ns) :
    GivesAndDrains s x ns := by
  have hnotices : x.notices = t.notices := by rw [hx]
  have hpending : x.drainPending = t.drainPending := by rw [hx]
  have hdrained : x.drained = t.drained := State.drained_congr (by rw [hx]) (by rw [hx])
  rwa [GivesAndDrains, hnotices, hpending, hdrained]

/-- Steps that leave the cells, the phase and the count of RESETs leave every byte (R2). -/
theorem sameBytes_of_cells (hmem : x.mem = s.mem) (hphase : x.phase = s.phase) (hcount : x.resetCount = s.resetCount) :
    SameBytes s x := State.byteAt_congr hphase hcount hmem

end

section
variable {s : State} {f : List Byte} {k : UpdateKind}

/-- An update that is discarded leaves its copy alone behind (R25, R26). -/
theorem UpdateFor.discarded (h : UpdateFor s f k) (sent : Nat)
    (hold : (s.lineRec (Frame.line f)).stamp.newer (Frame.stamp f) = true
      ∨ (Frame.stamp f = (s.lineRec (Frame.line f)).stamp
        ∧ ((s.lineRec (Frame.line f)).content = .valid ∨ s.covered (Frame.line f) = true))) :
    ∃ t, exec (.frameReceivedWhole f sent) s = .next t
      ∧ t = { s with receiving := false, fifo := t.fifo, sending := t.sending }
      ∧ ForwardsCopy s t f ⟨false, false, none⟩ sent := by
  obtain ⟨-, hline, hstamp, -⟩ := Frame.update_eq f k
  refine h.exec_eq sent (State.decideUpdate_of_discarded ?_) rfl rfl
  rw [hline, hstamp]
  exact hold

end

/-- Settles O25: both are discarded by the decision. -/
theorem olderOrDuplicateUpdateIsDiscarded : Obligations.OlderOrDuplicateUpdateIsDiscarded := by
  unfold Obligations.OlderOrDuplicateUpdateIsDiscarded
  intro s f sent k h hold
  refine h.discarded sent ?_
  rwa [State.covered_iff]

/-- Settles O26: the decision heals or misses, and a heal touches the line's record and the Apply Queue. -/
theorem equalStampOnAnUntrustedLine : Obligations.EqualStampOnAnUntrustedLine := by
  unfold Obligations.EqualStampOnAnUntrustedLine
  intro s f sent k h hstamp hcontent huncovered
  obtain ⟨hkind, hline, hustamp, hmask, hdata, -⟩ := Frame.update_eq f k
  have hcovered : s.endReception.covered (Frame.line f) = false := by
    rw [← Bool.not_eq_true, State.covered_iff]
    rintro ⟨e, he, hcovers⟩
    exact huncovered e he hcovers
  have hdecide := State.decideUpdate_of_untrusted (s := s.endReception) (u := Frame.update f k)
    (by rw [hline, hustamp]; exact hstamp) (by rw [hline]; exact hcontent) (by rw [hline]; exact hcovered)
  rw [hkind] at hdecide
  split
  · next hheals =>
    obtain ⟨hfull, hroom⟩ := hheals
    obtain ⟨x, hexec, hx, hcopy⟩ := h.exec_eq sent (hdecide.trans (if_pos ⟨hfull, hroom⟩)) rfl rfl
    subst hfull
    refine ⟨x, hexec, ?_, CopyMoves.onlyRecord hx ⟨?_, fun l hl => ?_⟩, hcopy⟩
    · have hlines : x.lines = (s.endReception.queueApply (Frame.update f .full) .heal).lines := by rw [hx]
      rw [hlines]
      exact hx
    · exact (State.lineRec_queueApply s.endReception (Frame.update f .full) .heal _).trans (if_pos rfl)
    · exact (State.lineRec_queueApply s.endReception (Frame.update f .full) .heal _).trans (if_neg hl)
  · next hmissed =>
    exact h.exec_eq sent (hdecide.trans (if_neg hmissed)) rfl rfl

/-- Settles O27: the bytes are taken, and the raise is that of `State.raiseAndQueue_spec`. -/
theorem newerUpdateRaisesAndQueues : Obligations.NewerUpdateRaisesAndQueues := by
  unfold Obligations.NewerUpdateRaisesAndQueues
  intro s f sent k h hnewer hroom hfits
  obtain ⟨hkind, hline, hstamp, hmask, hdata, hbase⟩ := Frame.update_eq f k
  have htakes : s.endReception.TakesBytes (Frame.update f k) := by
    refine ⟨hroom, ?_⟩
    cases k with
    | full => exact .inl rfl
    | delta => exact .inr (hfits.resolve_left (by simp))
  have hdecide := State.decideUpdate_of_taken (by rw [hline, hstamp]; exact hnewer) htakes
  obtain ⟨hframe, hrec, hgives⟩ := s.endReception.raiseAndQueue_spec (Frame.update f k)
  simp only [hline, hstamp, hkind, hmask, hdata, State.supersedes] at hframe hrec hgives
  generalize s.endReception.raiseAndQueue (Frame.update f k) = t at hdecide hframe hrec hgives
  obtain ⟨x, hexec, hx, hcopy⟩ := h.exec_eq sent hdecide (by rw [hframe]; rfl) (by rw [hframe]; rfl)
  refine ⟨x, hexec, ?_, CopyMoves.onlyRecord hx hrec, CopyMoves.givesAndDrains hx hgives, hcopy, ?_⟩
  · rw [hx, hframe]
    rfl
  · refine sameBytes_of_cells ?_ ?_ ?_ <;> (rw [hx, hframe]; rfl)

/-- Settles O28: the bytes are not taken, and the raise is that of `State.raiseStale_spec`. -/
theorem newerUpdateThatIsMissedTurnsStale : Obligations.NewerUpdateThatIsMissedTurnsStale := by
  unfold Obligations.NewerUpdateThatIsMissedTurnsStale
  intro s f sent k h hnewer hmissed
  obtain ⟨hkind, hline, hstamp, -, -, hbase⟩ := Frame.update_eq f k
  have htakes : ¬ s.endReception.TakesBytes (Frame.update f k) := by
    rintro ⟨hroom, hfits⟩
    rcases hmissed with hfull | ⟨hdelta, hunfit⟩
    · exact absurd hroom (Nat.not_lt.2 hfull)
    · rw [hkind, hline, hbase hdelta] at hfits
      obtain ⟨hvalid, hsame⟩ := hfits.resolve_left (by simp [hdelta])
      exact hunfit.elim (fun hc => hc hvalid) fun hb => hb hsame
  have hdecide := State.decideUpdate_of_missed (by rw [hline, hstamp]; exact hnewer) htakes
  obtain ⟨hframe, hrec, ns, hperm, hgives⟩ := s.endReception.raiseStale_spec (Frame.update f k)
  simp only [hline, hstamp, State.supersedes, State.reportsMissed] at hframe hrec hperm
  generalize s.endReception.raiseStale (Frame.update f k) = t at hdecide hframe hrec hgives
  obtain ⟨x, hexec, hx, hcopy⟩ := h.exec_eq sent hdecide (by rw [hframe]; rfl) (by rw [hframe]; rfl)
  refine ⟨x, ns, hexec, ?_, CopyMoves.onlyRecord hx hrec, hperm, CopyMoves.givesAndDrains hx hgives, hcopy, ?_⟩
  · rw [hx, hframe]
    rfl
  · refine sameBytes_of_cells ?_ ?_ ?_ <;> (rw [hx, hframe]; rfl)

end Sys2Proof.Machine

/-! # The forwarded copy, field by field -/

namespace Sys2Proof.Machine
namespace Frame

section
variable (f : List Byte) (m : Marks)

/-- A frame without its check, with the marks set and the hop budget lowered (R141, R142). -/
def markedBody : List Byte :=
  ((f.take (f.length - 2)).set 0 (markedByte (byte f 0) m)).set 1 (budget f - 1)

/-- What the forwarded copy of a frame seals: in a PROBE's copy the presence map too is marked (R141, R165). -/
def forwardedBody : List Byte :=
  match m.presence with
  | none => markedBody f m
  | some n => (markedBody f m).take 8 ++ wordBytes (present (presence f) n) ++ (markedBody f m).drop 12

theorem forwarded_eq_seal : forwarded f m = Frame.seal (forwardedBody f m) := by
  unfold forwarded forwardedBody
  cases m.presence <;> rfl

@[simp] theorem length_markedBody : (markedBody f m).length = f.length - 2 := by
  simp [markedBody]

theorem byte_markedBody {i : Nat} (hi : i + 2 < f.length) :
    byte (markedBody f m) i = if i = 0 then markedByte (byte f 0) m else if i = 1 then budget f - 1 else byte f i := by
  have hlt : i < f.length - 2 := by omega
  unfold markedBody byte
  rw [List.getD_eq_getElem _ _ (by simpa using hlt), List.getD_eq_getElem _ _ (by omega : i < f.length)]
  rw [List.getElem_set, List.getElem_set, List.getElem_take]
  by_cases h0 : i = 0
  · simp [h0]
  · by_cases h1 : i = 1
    · simp [h1]
    · simp [h0, h1, Ne.symm h0, Ne.symm h1]

/-- The bytes of a body stand before its check. -/
theorem byte_seal {body : List Byte} {i : Nat} (hi : i < body.length) : byte (Frame.seal body) i = byte body i := by
  unfold byte Frame.seal
  exact List.getD_append _ _ _ _ hi

end

section
variable {f : List Byte} {m : Marks}

theorem length_forwardedBody (hm : m.presence ≠ none → f.length = 14) : (forwardedBody f m).length = f.length - 2 := by
  unfold forwardedBody
  cases hp : m.presence with
  | none => exact length_markedBody f m
  | some n => simp [wordBytes, halfBytes, hm (by simp [hp])]

/-- Outside a marked presence map the body is the marked one (R141). -/
theorem byte_forwardedBody (hm : m.presence ≠ none → f.length = 14) {i : Nat} (hi : i + 2 < f.length)
    (hout : m.presence = none ∨ i < 8 ∨ 12 ≤ i) : byte (forwardedBody f m) i = byte (markedBody f m) i := by
  unfold forwardedBody
  cases hp : m.presence with
  | none => rfl
  | some n =>
    have hlen : f.length = 14 := hm (by simp [hp])
    have hi8 : i < 8 := by
      rcases hout with h | h | h
      · simp [hp] at h
      · exact h
      · omega
    have htake : i < ((markedBody f m).take 8).length := by simp [hlen, hi8]
    unfold byte
    dsimp only
    rw [List.append_assoc]
    rw [List.getD_append _ _ _ _ htake, List.getD_eq_getElem _ _ htake, List.getElem_take,
      List.getD_eq_getElem _ _ (by simp; omega)]

/-- The bytes of a forwarded copy outside a marked presence map (R141, R142). -/
theorem byte_forwarded (hm : m.presence ≠ none → f.length = 14) {i : Nat} (hi : i + 2 < f.length)
    (hout : m.presence = none ∨ i < 8 ∨ 12 ≤ i) :
    byte (forwarded f m) i =
      if i = 0 then markedByte (byte f 0) m else if i = 1 then budget f - 1 else byte f i := by
  have hlt : i < (forwardedBody f m).length := by rw [length_forwardedBody hm]; omega
  rw [forwarded_eq_seal, byte_seal hlt, byte_forwardedBody hm hi hout, byte_markedBody f m hi]

/-- A marked presence map has the station's position set, and every other as received (R165). -/
theorem presence_forwarded {n : Byte} (hp : m.presence = some n) (hlen : f.length = 14) :
    presence (forwarded f m) = present (presence f) n := by
  have htake : ((markedBody f m).take 8).length = 8 := by simp [hlen]
  have hdrop : (markedBody f m).drop 12 = [] := List.drop_eq_nil_of_le (by simp [hlen])
  refine word_eq_of_drop (rest := halfBytes (Crc.compute (forwardedBody f m))) ?_
  rw [forwarded_eq_seal, Frame.seal]
  generalize halfBytes (Crc.compute (forwardedBody f m)) = check
  simp only [forwardedBody, hp, hdrop, List.append_nil, List.append_assoc]
  exact List.drop_left' htake

theorem getLsbD_present (map : BitVec 32) (n : Byte) {k : Nat} (hk : k < 32) :
    (present map n).getLsbD k = (map.getLsbD k || decide (k = n.toNat)) := by
  unfold present
  rw [BitVec.getLsbD_or, BitVec.getLsbD_shiftLeft, BitVec.getLsbD_one]
  congr 1
  by_cases h : k = n.toNat
  · simp [h]
    omega
  · have : ¬ k - n.toNat = 0 ∨ k < n.toNat := by omega
    rcases this with h' | h' <;> simp [h, h'] 

/-- The marks of a copy are set in byte 0 where the action sets them, and never cleared (R141). -/
theorem markedByte_bits (b : Byte) (m : Marks) :
    (markedByte b m).getLsbD 3 = (b.getLsbD 3 || m.missed) ∧ (markedByte b m).getLsbD 2 = (b.getLsbD 2 || m.answered)
      ∧ markedByte b m &&& 0xF3#8 = b &&& 0xF3#8 := by
  unfold markedByte
  refine ⟨?_, ?_, ?_⟩
  · cases m.missed <;> cases m.answered <;> simp
  · cases m.missed <;> cases m.answered <;> simp
  · have hclear (x : Byte) (hx : x &&& 0xF3#8 = 0#8) : (b ||| x) &&& 0xF3#8 = b &&& 0xF3#8 := by
      rw [BitVec.and_or_distrib_right, hx, BitVec.or_zero]
    rw [BitVec.or_assoc]
    refine hclear _ ?_
    cases m.missed <;> cases m.answered <;> rfl

end
end Frame

/-- Settles O53: the copy is sealed afresh, and each field is read from the bytes that hold it. -/
theorem forwardedCopyChangesOnlyItsMarks : Obligations.ForwardedCopyChangesOnlyItsMarks := by
  unfold Obligations.ForwardedCopyChangesOnlyItsMarks
  intro f m hgood hm
  have hf := Frame.length_of_checkGood hgood
  have hbody := Frame.length_forwardedBody hm
  have hfirst : Frame.byte (Frame.forwarded f m) 0 = Frame.markedByte (Frame.byte f 0) m :=
    Frame.byte_forwarded hm (by omega) (by omega)
  obtain ⟨hmissed, hanswered, hrest⟩ := Frame.markedByte_bits (Frame.byte f 0) m
  refine ⟨Frame.length_forwarded (by omega) hm, ?_, ?_, ?_, ?_, ?_, fun i hi hlt hout => ?_, fun n hn k hk => ?_⟩
  · rw [Frame.forwarded_eq_seal]
    exact Frame.checkGood_seal (body := Frame.forwardedBody f m) (by omega)
  · exact Frame.byte_forwarded (i := 1) hm (by omega) (by omega)
  · rw [Frame.missed, hfirst, hmissed]
    rfl
  · rw [Frame.answered, hfirst, hanswered]
    rfl
  · rw [hfirst, hrest]
  · rw [Frame.byte_forwarded hm hlt hout, if_neg (by omega), if_neg (by omega)]
  · rw [Frame.presence_forwarded hn (hm (by simp [hn])), Frame.getLsbD_present _ n hk]

end Sys2Proof.Machine

/-! # Positions and bytes: masks merged and selected, lines written -/

namespace Sys2Proof.Machine

/-! ## Masks (R2, R34, R199) -/

namespace Mask

/-- How many of the `n` positions from `p` on are in a mask. -/
def countFrom (m : Mask) (p n : Nat) : Nat := (List.range n).countP fun i => has m (p + i)

@[simp] theorem countFrom_zero (m : Mask) (p : Nat) : countFrom m p 0 = 0 := rfl

theorem countFrom_succ (m : Mask) (p n : Nat) :
    countFrom m p (n + 1) = (if has m p = true then 1 else 0) + countFrom m (p + 1) n := by
  have hshift : (fun i => has m (p + i)) ∘ Nat.succ = fun i => has m (p + 1 + i) := by
    funext i
    rw [Function.comp_apply, Nat.succ_eq_add_one, Nat.add_assoc, Nat.add_comm 1]
  unfold countFrom
  rw [List.range_succ_eq_map, List.countP_cons, List.countP_map, hshift, Nat.add_comm]
  rfl

/-- All 32 positions count as many as the mask has bits. -/
theorem countFrom_all (m : Mask) : countFrom m 0 32 = popcount m := by
  have hreverse : (List.range 32).map (31 - ·) = (List.range 32).reverse := by decide
  have hmirror : countFrom m 0 32 = ((List.range 32).map (31 - ·)).countP fun i => m.getLsbD i := by
    rw [List.countP_map]
    simp [countFrom, has, Function.comp_def]
  rw [hmirror, hreverse, List.countP_reverse]
  rfl

/-- Before a position of a mask there are fewer of them than the mask has. -/
theorem countFrom_lt_popcount {m : Mask} {q : Nat} (hq : q < 32) (h : has m q = true) : countFrom m 0 q < popcount m := by
  have hstep : countFrom m 0 (q + 1) = countFrom m 0 q + 1 := by
    simp [countFrom, List.range_succ, h]
  have hle : countFrom m 0 (q + 1) ≤ countFrom m 0 32 :=
    List.Sublist.countP_le (List.range_sublist.2 hq)
  rw [countFrom_all] at hle
  omega

/-- A merged byte comes from the data at a position of the mask, and from the line elsewhere. -/
theorem getD_merge (m : Mask) {p q : Nat} {bs ds : List Byte} (hq : q < bs.length) :
    (merge m p bs ds).getD q 0 =
      if has m (p + q) = true ∧ countFrom m p q < ds.length then ds.getD (countFrom m p q) 0 else bs.getD q 0 := by
  induction bs generalizing p q ds with
  | nil => simp at hq
  | cons b bs ih =>
    unfold merge
    cases q with
    | zero =>
      by_cases hp : has m p = true
      · cases ds <;> simp [hp]
      · simp [hp]
    | succ q =>
      have hq : q < bs.length := by simpa using hq
      have hadd : p + 1 + q = p + (q + 1) := by omega
      rw [countFrom_succ]
      by_cases hp : has m p = true
      · cases ds with
        | nil =>
          rw [if_pos hp, List.getD_cons_succ, ih hq, List.getD_cons_succ]
          simp
        | cons d ds =>
          simp only [hp, if_true, List.getD_cons_succ, ih hq, hadd, List.length_cons, Nat.add_comm 1, Nat.add_lt_add_iff_right]
      · rw [if_neg hp, if_neg hp, List.getD_cons_succ, List.getD_cons_succ, ih hq, hadd, Nat.zero_add]

/-- The data of a merge are as many as the positions of the mask, so that each position takes its byte. -/
theorem getD_merge_of_fits {m : Mask} {q : Nat} {bs ds : List Byte} (hbs : bs.length = 32) (hq : q < 32)
    (hds : ds.length = popcount m) :
    (merge m 0 bs ds).getD q 0 = if has m q = true then ds.getD (countFrom m 0 q) 0 else bs.getD q 0 := by
  rw [getD_merge m (by omega), Nat.zero_add]
  by_cases h : has m q = true
  · simp [h, hds, countFrom_lt_popcount hq h]
  · simp [h]

theorem has_all {q : Nat} (hq : q < 32) : has all q = true := by
  simp only [has, all, BitVec.getLsbD_allOnes, decide_eq_true_eq]
  omega

/-- Before a position there are as many positions as its number. -/
theorem countFrom_all_positions {q : Nat} (hq : q ≤ 32) : countFrom all 0 q = q := by
  have hevery : ∀ i ∈ List.range q, has all (0 + i) = true := fun i hi => by
    have := List.mem_range.1 hi
    exact has_all (by omega)
  rw [countFrom, List.countP_eq_length.2 hevery, List.length_range]

theorem popcount_all : popcount all = 32 := by rw [← countFrom_all, countFrom_all_positions (Nat.le_refl 32)]

/-- The bytes selected are those at the positions of the mask, in their order. -/
theorem select_eq (m : Mask) (p : Nat) (bs : List Byte) :
    select m p bs = ((List.range bs.length).filter fun i => has m (p + i)).map fun i => bs.getD i 0 := by
  induction bs generalizing p with
  | nil => rfl
  | cons b bs ih =>
    have hshift : ((fun i => has m (p + i)) ∘ Nat.succ) = fun i => has m (p + 1 + i) := by
      funext i
      rw [Function.comp_apply, Nat.succ_eq_add_one, Nat.add_assoc, Nat.add_comm 1]
    unfold select
    rw [List.length_cons, List.range_succ_eq_map, ih]
    cases hp : has m p <;> simp [hp, List.filter_map, hshift, Function.comp_def]

end Mask

/-! ## Lines written (R2, R3) -/

/-- A line written in a store that is open takes its bytes and a fresh check code, and no other line changes (R3). -/
theorem State.storesLine_writeLine {s : State} {line : Nat} {bytes : List Byte} (hc : s.uncleared line = false)
    (hl : bytes.length = 32) : StoresLine s (s.writeLine line bytes) line fun p => bytes.getD p 0 := by
  refine ⟨fun p hp => ?_, fun a ha => ?_, State.checkGood_writeLine s line bytes hc hl, fun k hk => ?_⟩
  · have hlt : p < bytes.length := by omega
    refine Eq.trans ?_ (List.getD_eq_getElem _ _ hlt).symm
    exact State.byteAt_writeCells_inside s line bytes _ hc hlt hl
  · exact State.byteAt_writeCells_outside s line bytes _ hl ha
  · exact State.lineCode_writeCells_other s line bytes _ hk

/-- The replica reads the same in two states with the same cells. -/
def SameCells (t x : State) : Prop :=
  x.mem = t.mem ∧ x.codes = t.codes ∧ x.phase = t.phase ∧ x.resetCount = t.resetCount

theorem SameCells.sameBytes {t x : State} (h : SameCells t x) : SameBytes t x := by
  obtain ⟨hmem, -, hphase, hcount⟩ := h
  exact sameBytes_of_cells hmem hphase hcount

theorem StoresLine.of_sameCells {s t x : State} {l : Nat} {bytes : Nat → Byte} (h : StoresLine s t l bytes)
    (hx : SameCells t x) : StoresLine s x l bytes := by
  obtain ⟨hin, hout, hgood, hcodes⟩ := h
  have hbytes := hx.sameBytes
  obtain ⟨hmem, hcode, hphase, hcount⟩ := hx
  have hcode (k : Nat) : x.lineCode k = t.lineCode k := State.lineCode_congr hphase hcount hcode k
  refine ⟨fun p hp => (hbytes _).trans (hin p hp), fun a ha => (hbytes a).trans (hout a ha), ?_,
    fun k hk => (hcode k).trans (hcodes k hk)⟩
  unfold State.checkGood at hgood ⊢
  rw [hcode, State.lineBytes_congr hphase hcount hmem, hgood]

/-- While the store is open no line waits for the clearing pass (R13, R17). -/
theorem State.uncleared_of_open {s : State} (h : s.storeClosed = false) (line : Nat) : s.uncleared line = false := by
  have hphase : s.phase = .ended := by
    cases hp : s.phase <;> simp_all [State.storeClosed, State.clearingShown, State.resetAsserted]
  simp [State.uncleared, hphase]

end Sys2Proof.Machine

/-! # The Apply Unit: a FULL replaces its line, a DELTA merges into it or finds its check failing -/

namespace Sys2Proof.Machine
namespace State

section
variable {s t : State} {e : ApplyEntry} {rest : List ApplyEntry}

/-! ## The parts of a completion -/

theorem exec_applyFull_of_granted (hg : s.grantsApply = true) (hq : s.applyQueue = e :: rest) (hk : e.kind = .full) :
    exec .applyFull s = .next (s.applyFullEntry e rest).resumeApplied := by
  simp [exec, execApplyFull, hg, hq, hk]

theorem exec_applyDelta_of_granted (u : Option Upset) (hg : s.grantsApply = true) (hq : s.applyQueue = e :: rest)
    (hk : e.kind = .delta) :
    exec (.applyDelta u) s = .next (s.applyDeltaEntry e rest u).resumeApplied := by
  simp [exec, execApplyDelta, hg, hq, hk]

/-- An access that waited for the entry goes on when its line keeps it waiting no longer (R49, R176). -/
theorem resumeApplied_goesOn (haccess : t.access = s.access) (hhold : t.hold = s.hold) :
    t.resumeApplied = { t with access := accessGoesOn s t.resumeApplied } := by
  have hheld (l : Nat) : t.isHeld l = s.isHeld l := by simp only [isHeld, hhold]
  have hrec (l : Nat) : t.resumeApplied.lineRec l = t.lineRec l := t.resumeApplied_lineRec l
  have hgoes : t.resumeApplied.access = accessGoesOn s t.resumeApplied := by
    rw [resumeApplied_access, haccess, accessGoesOn]
    refine congrArg (Option.map · s.access) (funext fun a => if_congr ?_ rfl rfl)
    rw [hrec, ← hheld, ← Bool.not_eq_true, keepsWaiting_iff]
    refine and_congr_right fun _ => ?_
    cases (t.lineRec (lineOf a.la)).applyPending <;> cases t.isHeld (lineOf a.la) <;> simp
  rw [← hgoes]
  exact resumeApplied_frame t

/-- FOREIGN follows the record that the entry leaves (R47). -/
theorem giveApplied_eq (t : State) (e : ApplyEntry) :
    t.giveApplied e =
      { t with notices := noticesAfter t.notices (appliedNotice (t.lineRec e.line) (t.lineRec e.line).content e) } := by
  unfold giveApplied appliedNotice
  by_cases h : (t.lineRec e.line).watched = true ∧ (t.lineRec e.line).content = .valid
  · simp only [h, beq_self_eq_true, Bool.and_self, if_true, and_self]
    rfl
  · have h' : ((t.lineRec e.line).watched && (t.lineRec e.line).content == .valid) = false := by
      rw [← Bool.not_eq_true]
      simpa using h
    simp only [h', if_neg h]
    rfl

theorem popApply_frame (t : State) (e : ApplyEntry) (rest : List ApplyEntry) :
    t.popApply e rest = { t with applyQueue := rest, lines := (t.popApply e rest).lines } := rfl

theorem onlyRecord_popApply {r : LineRecord} (h : OnlyRecord s t e.line r) :
    OnlyRecord s (t.popApply e rest) e.line { r with applyPending := rest.any fun x => x.line == e.line } := by
  obtain ⟨hsame, hother⟩ := h
  refine ⟨?_, fun k hk => ?_⟩
  · rw [lineRec_popApply, if_pos rfl, hsame]
  · rw [lineRec_popApply, if_neg hk, hother k hk]

/-! ## A FULL -/

/-- Whether a FULL entry turns its line VALID and ends its repair (R37, R41). -/
def heals (s : State) (e : ApplyEntry) : Bool :=
  decide ((s.lineRec e.line).stamp = e.stamp ∧ (s.lineRec e.line).content ≠ .valid)

/-- The line's content after a FULL entry (R37). -/
def contentAfter (s : State) (e : ApplyEntry) : Content :=
  if (s.lineRec e.line).stamp = e.stamp then .valid else (s.lineRec e.line).content

/-- What a FULL entry does once its bytes are written: the line turns VALID at its current stamp, with the end of its repair
if it was not VALID, and the entry leaves the queue (R35, R37, R41, R116). -/
def settleFull (s : State) (e : ApplyEntry) (rest : List ApplyEntry) : State :=
  if (s.lineRec e.line).stamp = e.stamp then
    if (s.lineRec e.line).content = .valid then
      (s.setRec e.line { s.lineRec e.line with content := .valid }).popApply e rest
    else s.turnValid e rest
  else s.popApply e rest

theorem applyFullEntry_eq (s : State) (e : ApplyEntry) (rest : List ApplyEntry) :
    s.applyFullEntry e rest =
      ((s.writeLine e.line (Mask.merge Mask.all 0 (s.lineBytes e.line) e.data)).settleFull e rest).giveApplied e := by
  unfold applyFullEntry
  generalize s.writeLine e.line (Mask.merge Mask.all 0 (s.lineBytes e.line) e.data) = t
  dsimp only [settleFull]
  by_cases hstamp : (t.lineRec e.line).stamp = e.stamp
  · by_cases hcontent : (t.lineRec e.line).content = .valid
    · simp only [hstamp, hcontent, if_true]
    · simp only [hstamp, hcontent, if_true, if_false, turnValid]
  · simp only [hstamp, if_false]

theorem onlyRecord_self (t : State) (l : Nat) : OnlyRecord t t l (t.lineRec l) := ⟨rfl, fun _ _ => rfl⟩

theorem onlyRecord_setRec (t : State) (l : Nat) (r : LineRecord) : OnlyRecord t (t.setRec l r) l r :=
  ⟨t.lineRec_setRec_same l r, fun _ hk => t.lineRec_setRec_other r hk⟩

theorem slot_turnValid (t : State) (e : ApplyEntry) (rest : List ApplyEntry) (i : SlotNo) :
    (t.turnValid e rest).slot i =
      if (t.slot i).names .repair e.line = true then { t.slot i with use := none } else t.slot i := by
  have hslot (r : LineRecord) (j : SlotNo) : ((t.setRec e.line r).unlistLine e.line).slot j = t.slot j := rfl
  rw [turnValid, popApply_slot, endRepair, slot_freeRepairSlot, hslot]

theorem popApply_setRec_frame (t : State) (e : ApplyEntry) (rest : List ApplyEntry) (r : LineRecord) :
    (t.setRec e.line r).popApply e rest =
      { t with lines := ((t.setRec e.line r).popApply e rest).lines, applyQueue := rest } := rfl

/-- The end of a repair changes the record of its line, the Repair List and the slots (R41, R116). -/
theorem endRepair_frame (t : State) (line : Nat) :
    t.endRepair line =
      { t with
        lines := (t.endRepair line).lines, slots := (t.endRepair line).slots
        repairList := t.repairList.filter fun x => x.line != line } := rfl

theorem turnValid_frame (t : State) (e : ApplyEntry) (rest : List ApplyEntry) :
    t.turnValid e rest =
      { t with
        lines := (t.turnValid e rest).lines, slots := (t.turnValid e rest).slots, applyQueue := rest
        repairList := t.repairList.filter fun x => x.line != e.line } := by
  unfold turnValid
  have hset (r : LineRecord) : t.setRec e.line r = { t with lines := (t.setRec e.line r).lines } := rfl
  rw [popApply_frame, endRepair_frame, hset]

theorem settleFull_of_heals {t : State} (h : t.heals e = true) (rest : List ApplyEntry) :
    t.settleFull e rest = t.turnValid e rest ∧ t.contentAfter e = .valid := by
  obtain ⟨hstamp, hcontent⟩ := of_decide_eq_true h
  exact ⟨by rw [settleFull, if_pos hstamp, if_neg hcontent], if_pos hstamp⟩

/-- An entry that heals nothing changes its line's record alone, and the record's content only at its stamp (R35, R37). -/
theorem settleFull_of_not_heals {t : State} (h : t.heals e = false) (rest : List ApplyEntry) :
    t.settleFull e rest = { t with lines := (t.settleFull e rest).lines, applyQueue := rest }
      ∧ OnlyRecord t (t.settleFull e rest) e.line
          { t.lineRec e.line with
            content := t.contentAfter e, applyPending := rest.any fun x => x.line == e.line } := by
  unfold settleFull contentAfter
  by_cases hstamp : (t.lineRec e.line).stamp = e.stamp
  · have hcontent : (t.lineRec e.line).content = .valid := by
      by_contra hc
      exact of_decide_eq_false h ⟨hstamp, hc⟩
    rw [if_pos hstamp, if_pos hcontent, if_pos hstamp]
    exact ⟨popApply_setRec_frame t e rest _, onlyRecord_popApply (onlyRecord_setRec t e.line _)⟩
  · rw [if_neg hstamp, if_neg hstamp]
    exact ⟨popApply_frame t e rest, onlyRecord_popApply (onlyRecord_self t e.line)⟩

/-- The record, the Repair List and the slots after a FULL entry (R35, R37, R41, R116). -/
theorem settleFull_spec (t : State) (e : ApplyEntry) (rest : List ApplyEntry) :
    t.settleFull e rest =
        { t with
          lines := (t.settleFull e rest).lines, slots := (t.settleFull e rest).slots, applyQueue := rest
          repairList := if t.heals e = true then t.repairList.filter (fun x => x.line != e.line) else t.repairList }
      ∧ OnlyRecord t (t.settleFull e rest) e.line
          { t.lineRec e.line with
            content := t.contentAfter e
            applyPending := rest.any fun x => x.line == e.line
            listed := (t.lineRec e.line).listed && !t.heals e }
      ∧ ∀ i, (t.settleFull e rest).slot i =
          if t.heals e = true ∧ (t.slot i).names .repair e.line = true then { t.slot i with use := none }
          else t.slot i := by
  cases hheals : t.heals e with
  | false =>
    obtain ⟨hframe, hrec⟩ := settleFull_of_not_heals hheals rest
    have hslots : (t.settleFull e rest).slots = t.slots := by rw [hframe]
    refine ⟨?_, ?_, fun i => ?_⟩
    · rw [hslots]
      exact hframe
    · rw [Bool.not_false, Bool.and_true]
      exact hrec
    · rw [if_neg (by simp), slot, hslots, slot]
  | true =>
    obtain ⟨hturns, hcontent⟩ := settleFull_of_heals hheals rest
    rw [hturns, hcontent]
    refine ⟨turnValid_frame t e rest, ⟨?_, fun k hk => ?_⟩, fun i => ?_⟩
    · rw [lineRec_turnValid, if_pos rfl, Bool.not_true, Bool.and_false]
    · rw [lineRec_turnValid, if_neg hk]
    · rw [slot_turnValid]
      exact if_congr (by simp) rfl rfl

/-- The states differ in cells of the Replica Store alone. -/
def CellsOf (s t : State) : Prop := t = { s with mem := t.mem, codes := t.codes }

theorem CellsOf.lineRec (h : CellsOf s t) (l : Nat) : t.lineRec l = s.lineRec l :=
  lineRec_congr (by rw [h]) l

theorem cellsOf_writeLine (s : State) (line : Nat) (bytes : List Byte) : CellsOf s (s.writeLine line bytes) := by
  simp only [CellsOf, writeLine, writeCells]

/-- FOREIGN and the access that waited, behind the move of the entry's line (R47, R49, R176). -/
def endApply (t : State) (e : ApplyEntry) : State := (t.giveApplied e).resumeApplied

/-- What the end of an entry leaves, by the record that the entry leaves. -/
theorem endApply_eq (haccess : t.access = s.access) (hhold : t.hold = s.hold) :
    t.endApply e =
      { t with
        notices := noticesAfter t.notices (appliedNotice (t.lineRec e.line) (t.lineRec e.line).content e)
        access := accessGoesOn s (t.endApply e) } := by
  have hgives := giveApplied_eq t e
  have haccess' : (t.giveApplied e).access = s.access := by rw [hgives, ← haccess]
  have hhold' : (t.giveApplied e).hold = s.hold := by rw [hgives, ← hhold]
  refine (resumeApplied_goesOn haccess' hhold').trans ?_
  rw [endApply, hgives]

/-- Only the notices and the access move at the end of an entry. -/
theorem endApply_frame (t : State) (e : ApplyEntry) :
    t.endApply e = { t with notices := (t.endApply e).notices, access := (t.endApply e).access } := by
  unfold endApply
  rw [resumeApplied_frame, giveApplied_frame]

/-- What a FULL entry does, from a state in which its bytes are written (R35, R37, R41, R47, R116, R176). -/
theorem settleFull_endApply (ht : CellsOf s t) (e : ApplyEntry) (rest : List ApplyEntry) :
    let x := (t.settleFull e rest).endApply e
    x = { s with
        mem := t.mem, codes := t.codes, lines := x.lines, slots := x.slots, applyQueue := rest
        repairList := if s.heals e = true then s.repairList.filter (fun x => x.line != e.line) else s.repairList
        notices := noticesAfter s.notices (appliedNotice (s.lineRec e.line) (s.contentAfter e) e)
        access := accessGoesOn s x }
      ∧ OnlyRecord s x e.line
          { s.lineRec e.line with
            content := s.contentAfter e
            applyPending := rest.any fun x => x.line == e.line
            listed := (s.lineRec e.line).listed && !s.heals e }
      ∧ ∀ i, x.slot i =
          if s.heals e = true ∧ (s.slot i).names .repair e.line = true then { s.slot i with use := none }
          else s.slot i := by
  intro x
  have hheals : t.heals e = s.heals e := by simp only [heals, ht.lineRec]
  have hafter : t.contentAfter e = s.contentAfter e := by simp only [contentAfter, ht.lineRec]
  obtain ⟨hframe, ⟨hsame, hother⟩, hslots⟩ := settleFull_spec t e rest
  simp only [hheals, hafter, ht.lineRec] at hframe hsame hother hslots
  have hx : x = (t.settleFull e rest).endApply e := rfl
  clear_value x
  generalize t.settleFull e rest = v at hframe hsame hother hslots hx
  have hnotices : appliedNotice (v.lineRec e.line) (v.lineRec e.line).content e
      = appliedNotice (s.lineRec e.line) (s.contentAfter e) e := by
    rw [hsame]
    rfl
  have hend := endApply_eq (s := s) (t := v) (e := e) (by rw [hframe, ht]) (by rw [hframe, ht])
  rw [hnotices, ← hx] at hend
  have hlines : x.lines = v.lines := by rw [hend]
  have hxslots : x.slots = v.slots := by rw [hend]
  refine ⟨?_, ⟨?_, fun k hk => ?_⟩, fun i => ?_⟩
  · rw [hlines, hxslots]
    refine hend.trans ?_
    generalize accessGoesOn s x = access
    rw [hframe, ht]
  · rw [lineRec_congr hlines, hsame]
  · rw [lineRec_congr hlines, hother k hk]
  · have hslot : x.slot i = v.slot i := by rw [slot, hxslots, slot]
    have hts : t.slot i = s.slot i := by rw [ht]; rfl
    rw [hslot, hslots, hts]

end
end State

/-- Settles O38: the line is written, the record settled, FOREIGN given, and the access that waited goes on. -/
theorem applyFullReplacesTheLine : Obligations.ApplyFullReplacesTheLine := by
  unfold Obligations.ApplyFullReplacesTheLine
  intro s e rest hg hq hkind hdata
  have hopen := s.uncleared_of_open (State.open_of_grantsApply hg) e.line
  have hstores := State.storesLine_writeLine (bytes := Mask.merge Mask.all 0 (s.lineBytes e.line) e.data) hopen
    (by simp [Mask.merge_length])
  have hexec := State.exec_applyFull_of_granted hg hq hkind
  rw [State.applyFullEntry_eq] at hexec
  have hmerge (p : Nat) (hp : p < 32) :
      (Mask.merge Mask.all 0 (s.lineBytes e.line) e.data).getD p 0 = e.data.getD p 0 := by
    rw [Mask.getD_merge_of_fits (by simp) hp (by rw [hdata, Mask.popcount_all]), if_pos (Mask.has_all hp),
      Mask.countFrom_all_positions (Nat.le_of_lt hp)]
  generalize Mask.merge Mask.all 0 (s.lineBytes e.line) e.data = bytes at hexec hstores hmerge
  have hcells : State.CellsOf s (s.writeLine e.line bytes) := State.cellsOf_writeLine s e.line bytes
  have hphase : (s.writeLine e.line bytes).phase = s.phase ∧ (s.writeLine e.line bytes).resetCount = s.resetCount :=
    ⟨s.writeCells_phase e.line bytes _, s.writeCells_resetCount e.line bytes _⟩
  generalize s.writeLine e.line bytes = t at hexec hstores hcells hphase
  obtain ⟨hframe, hrec, hslots⟩ := State.settleFull_endApply hcells e rest
  rw [← State.endApply] at hexec
  generalize (t.settleFull e rest).endApply e = x at hexec hframe hrec hslots
  have hsame : SameCells t x := ⟨by rw [hframe], by rw [hframe], by rw [hframe, hphase.1], by rw [hframe, hphase.2]⟩
  obtain ⟨hin, hout⟩ := hstores.of_sameCells hsame
  obtain ⟨hmem, hcodes, -⟩ := hsame
  rw [← hmem, ← hcodes] at hframe
  exact ⟨x, hexec, hframe, ⟨fun p hp => (hin p hp).trans (hmerge p hp), hout⟩, hrec, hslots⟩

end Sys2Proof.Machine

/-! # The Apply Unit: DELTA entries -/

namespace Sys2Proof.Machine
namespace State

section
variable {s t : State} {e : ApplyEntry} {rest : List ApplyEntry}

theorem cellsOf_strike (s : State) (line : Nat) (u : Option Upset) : CellsOf s (s.strike line u) := strike_frame s line u

/-! ## The three courses of a DELTA entry -/

theorem applyDeltaEntry_of_untrusted (u : Option Upset) (h : (s.lineRec e.line).content ≠ .valid) :
    s.applyDeltaEntry e rest u = s.popApply e rest := by
  simp [applyDeltaEntry, h]

theorem applyDeltaEntry_of_bad (u : Option Upset) (hv : (s.lineRec e.line).content = .valid)
    (hc : (s.strike e.line u).checkGood e.line = false) :
    s.applyDeltaEntry e rest u = (((s.strike e.line u).checkFailure e.line).popApply e rest).drainTest := by
  simp [applyDeltaEntry, hv, hc]

theorem applyDeltaEntry_of_good (u : Option Upset) (hv : (s.lineRec e.line).content = .valid)
    (hc : (s.strike e.line u).checkGood e.line = true) :
    s.applyDeltaEntry e rest u =
      (((s.strike e.line u).writeLine e.line
        (Mask.merge e.mask 0 ((s.strike e.line u).lineBytes e.line) e.data)).popApply e rest).giveApplied e := by
  simp [applyDeltaEntry, hv, hc]

/-! ## What they leave -/

/-- On an untrusted line the entry leaves the queue, and the access that waited goes on (R35, R40, R176). -/
theorem popApply_resumeApplied (s : State) (e : ApplyEntry) (rest : List ApplyEntry) :
    let x := (s.popApply e rest).resumeApplied
    x = { s with lines := x.lines, applyQueue := rest, access := accessGoesOn s x }
      ∧ OnlyRecord s x e.line
          { s.lineRec e.line with applyPending := rest.any fun x => x.line == e.line } := by
  intro x
  obtain ⟨hsame, hother⟩ := onlyRecord_popApply (rest := rest) (onlyRecord_self s e.line)
  have hx : x = { s.popApply e rest with access := accessGoesOn s x } := resumeApplied_goesOn rfl rfl
  clear_value x
  have hlines : x.lines = (s.popApply e rest).lines := by rw [hx]
  refine ⟨?_, (lineRec_congr hlines _).trans hsame, fun k hk => (lineRec_congr hlines k).trans (hother k hk)⟩
  rw [hlines]
  exact hx

/-- On a VALID line whose check fails the failure has its effects, the entry leaves the queue, and the access that waited
goes on (R35, R39, R97, R176, R195). -/
theorem checkFailure_popApply_resumeApplied (s : State) (e : ApplyEntry) (rest : List ApplyEntry) :
    let x := ((s.checkFailure e.line).popApply e rest).drainTest.resumeApplied
    x = { s with
        lines := x.lines, applyQueue := rest, repairList := x.repairList, postList := x.postList
        notices := x.notices, drainPending := x.drainPending, access := accessGoesOn s x }
      ∧ OnlyRecord s x e.line
          { failedRecord s e.line with applyPending := rest.any fun x => x.line == e.line }
      ∧ FailureLists s x e.line ∧ GivesAndDrains s x (lostNotice s e.line) := by
  intro x
  obtain ⟨hrec, hrepair, hpost⟩ := s.checkFailure_fails e.line
  have hgives := s.checkFailure_gives e.line
  have hframe := s.checkFailure_frame e.line
  obtain ⟨hsame, hother⟩ := onlyRecord_popApply (rest := rest) hrec
  have hpop := popApply_frame (s.checkFailure e.line) e rest
  have hx : x = ((s.checkFailure e.line).popApply e rest).drainTest.resumeApplied := rfl
  clear_value x
  generalize s.checkFailure e.line = t at *
  generalize t.popApply e rest = v at *
  have hvframe : v = { s with
      lines := v.lines, applyQueue := rest, repairList := t.repairList, postList := t.postList, notices := t.notices } := by
    rw [hpop, hframe]
  have hdrain := givesAndDrains_drainTest (s := s) (t := v) (ns := lostNotice s e.line)
    (by rw [hvframe]; exact hgives) (by rw [hvframe])
  have hdframe := v.drainTest_frame
  have hdrec := v.drainTest_lineRec
  generalize v.drainTest = w at *
  have hw : x = { w with access := accessGoesOn s x } := by
    have := resumeApplied_goesOn (s := s) (t := w) (by rw [hdframe, hvframe]) (by rw [hdframe, hvframe])
    rwa [← hx] at this
  have hlines : x.lines = w.lines := by rw [hw]
  have hrepairs : x.repairList = t.repairList := by rw [hw, hdframe, hvframe]
  have hposts : x.postList = t.postList := by rw [hw, hdframe, hvframe]
  have hdrained : x.drained = w.drained := drained_congr (by rw [hw]) (by rw [hw])
  refine ⟨?_, ⟨?_, fun k hk => ?_⟩, ⟨hrepairs.trans hrepair, hposts.trans hpost⟩, ?_⟩
  · have hnotices : x.notices = w.notices := by rw [hw]
    have hpending : x.drainPending = w.drainPending := by rw [hw]
    rw [hrepairs, hposts, hlines, hnotices, hpending]
    refine hw.trans ?_
    generalize accessGoesOn s x = access
    rw [hdframe, hvframe]
  · rw [lineRec_congr hlines, hdrec, hsame]
  · rw [lineRec_congr hlines, hdrec, hother k hk]
  · obtain ⟨hn, hp⟩ := hdrain
    rw [GivesAndDrains, hdrained]
    exact ⟨by rw [hw]; exact hn, by rw [hw]; exact hp⟩

/-- What a merged DELTA entry does, from a state in which its bytes are written (R35, R38, R47, R176). -/
theorem popApply_endApply (ht : CellsOf s t) (hv : (s.lineRec e.line).content = .valid) (rest : List ApplyEntry) :
    let x := (t.popApply e rest).endApply e
    x = { s with
        mem := t.mem, codes := t.codes, lines := x.lines, applyQueue := rest
        notices := noticesAfter s.notices (appliedNotice (s.lineRec e.line) .valid e)
        access := accessGoesOn s x }
      ∧ OnlyRecord s x e.line
          { s.lineRec e.line with applyPending := rest.any fun x => x.line == e.line } := by
  intro x
  obtain ⟨hsame, hother⟩ := onlyRecord_popApply (rest := rest) (onlyRecord_self t e.line)
  have hpop := popApply_frame t e rest
  have hx : x = (t.popApply e rest).endApply e := rfl
  clear_value x
  generalize t.popApply e rest = v at *
  have hnotices : appliedNotice (v.lineRec e.line) (v.lineRec e.line).content e
      = appliedNotice (s.lineRec e.line) .valid e := by
    rw [hsame, ht.lineRec, ← hv]
    rfl
  have hend := endApply_eq (s := s) (t := v) (e := e) (by rw [hpop, ht]) (by rw [hpop, ht])
  rw [hnotices, ← hx] at hend
  have hlines : x.lines = v.lines := by rw [hend]
  refine ⟨?_, ?_, fun k hk => ?_⟩
  · rw [hlines]
    refine hend.trans ?_
    generalize accessGoesOn s x = access
    rw [hpop, ht]
  · rw [lineRec_congr hlines, hsame, ht.lineRec]
  · rw [lineRec_congr hlines, hother k hk, ht.lineRec]

end
end State

/-- Settles O39: the three courses of the entry, by the line's content and its check. -/
theorem applyDeltaMergesOrFails : Obligations.ApplyDeltaMergesOrFails := by
  unfold Obligations.ApplyDeltaMergesOrFails
  intro s e rest u hg hq hkind
  have hexec := State.exec_applyDelta_of_granted u hg hq hkind
  have hcells := s.cellsOf_strike e.line u
  have hgoes (x : State) : accessGoesOn (s.strike e.line u) x = accessGoesOn s x := by
    simp [accessGoesOn]
  refine ⟨fun hcontent => ?_, fun hcontent hbad => ?_, fun hcontent hgood hdata => ?_⟩
  · rw [State.applyDeltaEntry_of_untrusted u hcontent] at hexec
    exact ⟨_, hexec, s.popApply_resumeApplied e rest⟩
  · rw [State.applyDeltaEntry_of_bad u hcontent hbad] at hexec
    obtain ⟨hframe, hrec, hlists, hgives⟩ := (s.strike e.line u).checkFailure_popApply_resumeApplied e rest
    refine ⟨_, hexec, hgoes _ ▸ hframe, ?_, ?_, ?_, ?_⟩
    · simpa [OnlyRecord, failedRecord] using hrec
    · simpa [FailureLists] using hlists
    · simpa using hgives
    · generalize (((s.strike e.line u).checkFailure e.line).popApply e rest).drainTest.resumeApplied = x at hframe
      exact sameBytes_of_cells (by rw [hframe]) (by rw [hframe]) (by rw [hframe])
  · rw [State.applyDeltaEntry_of_good u hcontent hgood] at hexec
    have hopen := s.uncleared_of_open (State.open_of_grantsApply hg) e.line
    have hstruck : (s.strike e.line u).uncleared e.line = false := by
      rw [State.uncleared_congr (s := s) (by simp)]
      exact hopen
    generalize s.strike e.line u = v at hexec hcells hstruck ⊢
    have hstores := State.storesLine_writeLine (bytes := Mask.merge e.mask 0 (v.lineBytes e.line) e.data) hstruck
      (by simp [Mask.merge_length])
    have hmerge (p : Nat) (hp : p < 32) :
        (Mask.merge e.mask 0 (v.lineBytes e.line) e.data).getD p 0 =
          if Mask.has e.mask p = true then e.data.getD ((List.range p).countP fun q => Mask.has e.mask q) 0
          else v.byteAt (32 * e.line + p) := by
      rw [Mask.getD_merge_of_fits (by simp) hp hdata, State.lineBytes_getD v e.line hp]
      simp only [Mask.countFrom, Nat.zero_add]
    generalize Mask.merge e.mask 0 (v.lineBytes e.line) e.data = bytes at hexec hstores hmerge
    have hwritten : State.CellsOf v (v.writeLine e.line bytes) := State.cellsOf_writeLine v e.line bytes
    generalize v.writeLine e.line bytes = t at hexec hstores hwritten
    have hboth : State.CellsOf s t := by
      unfold State.CellsOf at hcells hwritten ⊢
      rw [hwritten, hcells]
    obtain ⟨hframe, hrec⟩ := State.popApply_endApply hboth hcontent rest
    rw [← State.endApply] at hexec
    generalize (t.popApply e rest).endApply e = x at hexec hframe hrec
    have hsame : SameCells t x := ⟨by rw [hframe], by rw [hframe], by rw [hframe, hwritten, hcells], by rw [hframe, hwritten, hcells]⟩
    obtain ⟨hin, hout⟩ := hstores.of_sameCells hsame
    obtain ⟨hmem, hcodes, -⟩ := hsame
    refine ⟨x, hexec, ?_, ⟨fun p hp => (hin p hp).trans (hmerge p hp), hout⟩, hrec⟩
    rw [hmem, hcodes, hcells]
    exact hframe

end Sys2Proof.Machine

/-! # Granted writes: the word stored, posts begun and joined, refusals -/

namespace Sys2Proof.Machine

/-! ## The enabled bytes of a word (R2) -/

/-- Among the kept numbers below `n`, a kept `k` stands behind as many as are kept below it. -/
theorem getElem?_filter_range (keep : Nat → Bool) {n k : Nat} (hk : k < n) (hkeep : keep k = true) :
    ((List.range n).filter keep)[(List.range k).countP keep]? = some k := by
  obtain ⟨m, rfl⟩ : ∃ m, n = k + (m + 1) := ⟨n - k - 1, by omega⟩
  rw [List.range_add, List.filter_append, List.range_succ_eq_map, List.map_cons, Nat.add_zero, List.filter_cons_of_pos hkeep,
    List.countP_eq_length_filter, List.getElem?_append_right (Nat.le_refl _), Nat.sub_self, List.getElem?_cons_zero]

theorem enabledBytes_eq (be : BitVec 4) (ld : Word) :
    enabledBytes be ld =
      ((List.range 4).filter fun j => be.getLsbD (3 - j)).map fun j => ld.extractLsb' (8 * (3 - j)) 8 := by
  have hstep (j : Nat) (l : List Nat) :
      ((j :: l).filter fun j => be.getLsbD (3 - j)).map (fun j => ld.extractLsb' (8 * (3 - j)) 8) =
        (if be.getLsbD (3 - j) then [ld.extractLsb' (8 * (3 - j)) 8] else [])
          ++ (l.filter fun j => be.getLsbD (3 - j)).map fun j => ld.extractLsb' (8 * (3 - j)) 8 := by
    cases h : be.getLsbD (3 - j) <;> simp only [List.filter_cons, h] <;> rfl
  have hrange : List.range 4 = [0, 1, 2, 3] := rfl
  rw [hrange, hstep, hstep, hstep, hstep, ← List.append_assoc, ← List.append_assoc, ← List.append_assoc]
  exact (List.append_nil _).symm

theorem Mask.has_enabledMask {w q : Nat} (hw : w < 8) (hq : q < 32) (be : BitVec 4) :
    Mask.has (enabledMask w be) q = (decide (q / 4 = w) && be.getLsbD (3 - q % 4)) := by
  unfold Mask.has enabledMask
  rw [BitVec.getLsbD_shiftLeft, BitVec.getLsbD_setWidth]
  rcases Nat.lt_trichotomy (q / 4) w with hlt | heq | hgt
  · have hbit : be.getLsbD (31 - q - (28 - 4 * w)) = false := BitVec.getLsbD_of_ge _ _ (by omega)
    simp [hbit, Nat.ne_of_lt hlt]
  · have hbit : 31 - q - (28 - 4 * w) = 3 - q % 4 := by omega
    have hroom : ¬ 31 - q < 28 - 4 * w ∧ 31 - q < 32 ∧ 3 - q % 4 < 32 := by omega
    simp only [hbit, heq, hroom, decide_true, decide_false, Bool.not_false, Bool.true_and]
  · have hroom : 31 - q < 28 - 4 * w := by omega
    simp [hroom, Nat.ne_of_gt hgt]

theorem Mask.has_or (m n : Mask) (q : Nat) : Mask.has (m ||| n) q = (Mask.has m q || Mask.has n q) :=
  BitVec.getLsbD_or

/-- The enabled positions before one of the word are those of the word before it. -/
theorem Mask.countFrom_enabledMask {w k : Nat} (hw : w < 8) (hk : k < 4) (be : BitVec 4) :
    Mask.countFrom (enabledMask w be) 0 (4 * w + k) = (List.range k).countP fun j => be.getLsbD (3 - j) := by
  have hbefore : (List.range (4 * w)).countP (fun i => Mask.has (enabledMask w be) (0 + i)) = 0 := by
    rw [List.countP_eq_zero]
    intro i hi
    have hi := List.mem_range.1 hi
    rw [Nat.zero_add, Mask.has_enabledMask hw (by omega)]
    simp
    omega
  have hwithin : ∀ j ∈ List.range k,
      (((fun i => Mask.has (enabledMask w be) (0 + i)) ∘ fun j => 4 * w + j) j = true ↔ be.getLsbD (3 - j) = true) := by
    intro j hj
    have hj := List.mem_range.1 hj
    have hdiv : (4 * w + j) / 4 = w := by omega
    have hmod : (4 * w + j) % 4 = j := by omega
    rw [Function.comp_apply, Nat.zero_add, Mask.has_enabledMask hw (by omega), hdiv, hmod]
    simp
  rw [Mask.countFrom, List.range_add, List.countP_append, hbefore, Nat.zero_add, List.countP_map, List.countP_congr hwithin]

/-- A merged word: each enabled position takes its byte of LD, and every other byte stays (R2, R18). -/
theorem getD_merge_enabled {w q : Nat} (hw : w < 8) (hq : q < 32) (be : BitVec 4) (ld : Word) {bs : List Byte}
    (hbs : bs.length = 32) :
    (Mask.merge (enabledMask w be) 0 bs (enabledBytes be ld)).getD q 0 =
      if q / 4 = w ∧ be.getLsbD (3 - q % 4) = true then ld.extractLsb' (8 * (3 - q % 4)) 8 else bs.getD q 0 := by
  rw [Mask.getD_merge _ (by omega), Nat.zero_add, Mask.has_enabledMask hw hq]
  by_cases h : q / 4 = w ∧ be.getLsbD (3 - q % 4) = true
  · obtain ⟨hword, hbit⟩ := h
    obtain ⟨k, hk, hqk⟩ : ∃ k, k < 4 ∧ q = 4 * w + k := ⟨q % 4, by omega, by omega⟩
    have hmod : q % 4 = k := by omega
    rw [hmod] at hbit ⊢
    have hget := getElem?_filter_range (fun j => be.getLsbD (3 - j)) hk hbit
    have hcount := Mask.countFrom_enabledMask hw hk be
    rw [← hqk] at hcount
    have hbyte : (enabledBytes be ld)[Mask.countFrom (enabledMask w be) 0 q]? = some (ld.extractLsb' (8 * (3 - k)) 8) := by
      rw [enabledBytes_eq, hcount, List.getElem?_map, hget]
      rfl
    have hlt := (List.getElem?_eq_some_iff.1 hbyte).1
    rw [if_pos ⟨by simp [hword, hbit], hlt⟩, if_pos ⟨hword, hbit⟩, List.getD_eq_getElem?_getD, hbyte]
    rfl
  · rw [if_neg h, if_neg fun hc => h (by simpa using hc.1)]

end Sys2Proof.Machine

/-! # Granted writes: taken, joined to a post, or refused -/

namespace Sys2Proof.Machine

section
variable {s : State} {a : Access} {be : BitVec 4} {ld : Word}

/-! ## The claim -/

/-- A granted write that acts works on the struck line, with the hold bound by the claim (R18, R180). -/
theorem exec_writeClaimGranted_of_acts (u : Option Upset) (h : GrantActs s a) (hk : a.kind = .write be ld) :
    exec (.writeClaimGranted u) s =
      .next (({ s.strike (lineOf a.la) u with hold := holdAtGrant s a } : State).writeWord a.la be ld) := by
  have hw := h.not_waiting
  obtain ⟨ha, hg, -⟩ := h
  have hhold : holdAtGrant (s.strike (lineOf a.la) u) a = holdAtGrant s a := by simp [holdAtGrant]
  rw [← hhold, ← State.bindHold_eq]
  simp [exec, execWriteClaimGranted, ha, hg, hk, hw]

/-- The state that a granted write works on: the struck line's cells, and the hold bound. -/
def State.granted (s : State) (a : Access) (u : Option Upset) : State :=
  { s.strike (lineOf a.la) u with hold := holdAtGrant s a }

theorem State.granted_checkGood (s : State) (a : Access) (u : Option Upset) (l : Nat) :
    (s.granted a u).checkGood l = (s.strike (lineOf a.la) u).checkGood l := rfl

theorem State.granted_lineRec (s : State) (a : Access) (u : Option Upset) (l : Nat) :
    (s.granted a u).lineRec l = s.lineRec l := s.strike_lineRec (lineOf a.la) u l

theorem State.granted_eq_bindHold (s : State) (a : Access) (u : Option Upset) :
    s.granted a u = (s.strike (lineOf a.la) u).bindHold a := by
  have hhold : holdAtGrant (s.strike (lineOf a.la) u) a = holdAtGrant s a := by simp [holdAtGrant]
  rw [State.bindHold_eq, hhold]
  rfl

/-- A line with apply pending that a granted claim acts on is the held line, also once the hold is bound (R49, R180). -/
theorem GrantActs.isHeld (h : GrantActs s a) (u : Option Upset)
    (hp : ((s.granted a u).lineRec (lineOf a.la)).applyPending = true) : (s.granted a u).isHeld (lineOf a.la) = true := by
  have hheld := h.unqueued_or_held u
  rw [← State.granted_eq_bindHold] at hheld
  exact hheld.resolve_left (by simp [hp])

/-! ## Refusals -/

/-- With a good check the record decides the first reasons of a refusal (R50). -/
theorem State.writeRefusal_of_record {s : State} {line : Nat}
    (hheld : (s.lineRec line).applyPending = true → s.isHeld line = true) :
    ((s.lineRec line).applyPending = true → s.writeRefusal line true = some .overtaken)
      ∧ ((s.lineRec line).applyPending = false → (s.lineRec line).content = .stale →
        s.writeRefusal line true = some .stale)
      ∧ ((s.lineRec line).applyPending = false → (s.lineRec line).content = .suspect →
        s.writeRefusal line true = some .suspect) := by
  refine ⟨fun hp => ?_, fun hp hc => ?_, fun hp hc => ?_⟩
  · simp [State.writeRefusal, hp, hheld hp]
  · simp [State.writeRefusal, hp, hc]
  · simp [State.writeRefusal, hp, hc]

/-- A write begins a post with no post waiting, and on a POSTED line whose base stamp is its current stamp (R53). -/
theorem LineRecord.beginsPost_iff (r : LineRecord) :
    r.beginsPost = true ↔ r.pending.post = none ∨ ∃ p, r.pending = .posted p ∧ p.base = r.stamp := by
  unfold LineRecord.beginsPost
  cases r.pending <;> simp [Pending.post]

theorem version_eq_max_iff (v : BitVec 48) : v = maxVersion ↔ v.toNat = 281474976710655 := by
  have hmax : maxVersion.toNat = 281474976710655 := by decide
  rw [← hmax]
  exact BitVec.toNat_inj.symm

/-- A refused write completes with LERR and WRITE-REFUSED, and changes nothing else (R50). -/
theorem State.granted_refuseWrite (s : State) (a : Access) (u : Option Upset) (line : Nat) (reason : RefuseReason) :
    (s.granted a u).refuseWrite line reason =
      { s.strike (lineOf a.la) u with
        hold := holdAtGrant s a, access := none, completion := some ⟨false, none⟩
        notices := noticesAfter s.notices [.writeRefused line reason] } := by
  rw [← s.strike_notices (lineOf a.la) u]
  rfl

/-- What a write that finds a failing check leaves (R50, R97 to R102, R195; log 14). -/
theorem State.writeWord_fails {s : State} {la : BitVec 15} {be : BitVec 4} {ld : Word} {reason : RefuseReason}
    (h : s.checkGood (lineOf la) = false) (hr : s.writeRefusal (lineOf la) false = some reason) :
    let x := s.writeWord la be ld
    x = { s with
        access := none, completion := some ⟨false, none⟩
        lines := x.lines, repairList := x.repairList, postList := x.postList
        notices := x.notices, drainPending := x.drainPending }
      ∧ FailsCheck s x (lineOf la)
      ∧ GivesAndDrains s x (lostNotice s (lineOf la) ++ [.writeRefused (lineOf la) reason])
      ∧ SameBytes s x := by
  intro x
  have hx : x = ((s.checkFailure (lineOf la)).refuseWrite (lineOf la) reason).drainTest :=
    State.writeWord_of_bad s la be ld reason h hr
  have hfails := s.checkFailure_fails (lineOf la)
  have hgives := s.checkFailure_gives (lineOf la)
  have hframe := s.checkFailure_frame (lineOf la)
  clear_value x
  generalize s.checkFailure (lineOf la) = t at *
  have hw : t.refuseWrite (lineOf la) reason =
      { t with
        notices := noticesAfter t.notices [.writeRefused (lineOf la) reason], access := none
        completion := some ⟨false, none⟩ } := rfl
  generalize t.refuseWrite (lineOf la) reason = w at *
  have hdrain := givesAndDrains_drainTest (s := s) (t := w)
    (ns := lostNotice s (lineOf la) ++ [.writeRefused (lineOf la) reason])
    (by rw [hw, hgives]; exact (List.foldl_append ..).symm) (by rw [hw, hframe])
  rw [← hx] at hdrain
  have hxframe := w.drainTest_frame
  rw [← hx] at hxframe
  have hlines : x.lines = t.lines := by rw [hxframe, hw]
  have hall : x = { s with
      access := none, completion := some ⟨false, none⟩
      lines := x.lines, repairList := x.repairList, postList := x.postList
      notices := x.notices, drainPending := x.drainPending } := by
    rw [hxframe, hw, hframe]
  refine ⟨hall, ?_, hdrain, sameBytes_of_cells (by rw [hall]) (by rw [hall]) (by rw [hall])⟩
  obtain ⟨⟨hsame, hother⟩, hrepair, hpost⟩ := hfails
  exact ⟨⟨(State.lineRec_congr hlines _).trans hsame, fun k hk => (State.lineRec_congr hlines k).trans (hother k hk)⟩,
    by rw [hxframe, hw]; exact hrepair, by rw [hxframe, hw]; exact hpost⟩

end

/-- Settles O13: the first reason of R50 that applies is read off the record and the check. -/
theorem grantedWriteIsRefusedByItsReasons : Obligations.GrantedWriteIsRefusedByItsReasons := by
  unfold Obligations.GrantedWriteIsRefusedByItsReasons
  intro s a be ld u hacts hkind l r v refused
  have hexec := exec_writeClaimGranted_of_acts u hacts hkind
  rw [← State.granted] at hexec
  have hrec : (s.granted a u).lineRec l = r := s.granted_lineRec a u l
  have hrefused (hgood : v.checkGood l = true) (reason : RefuseReason)
      (hr : (s.granted a u).writeRefusal l true = some reason) :
      exec (.writeClaimGranted u) s = .next (refused reason) := by
    rw [hexec, State.writeWord_of_refusal (s.granted a u) a.la be ld reason hgood hr]
    exact congrArg _ (s.granted_refuseWrite a u l reason)
  obtain ⟨hovertaken, hstale, hsuspect⟩ := State.writeRefusal_of_record (hacts.isHeld u)
  have hrec' : (s.granted a u).lineRec (lineOf a.la) = r := hrec
  rw [hrec'] at hovertaken hstale hsuspect
  refine ⟨fun hgood => ⟨fun hp => hrefused hgood _ (hovertaken hp), fun hp hc => hrefused hgood _ (hstale hp hc),
    fun hp hc => hrefused hgood _ (hsuspect hp hc)⟩, fun hbad => ?_, fun hp hc hgood hversion hbegins => ?_⟩
  · have hreason := (s.granted a u).writeRefusal_of_bad l
    have hheld : ((s.granted a u).isHeld l && r.applyPending) = r.applyPending := by
      cases hp : r.applyPending with
      | false => exact Bool.and_false _
      | true => exact (Bool.and_true _).trans (hacts.isHeld u (by rw [hrec', hp]))
    rw [hrec, hheld] at hreason
    obtain ⟨hframe, hfails, hgives, hbytes⟩ := State.writeWord_fails (s := s.granted a u) (be := be) (ld := ld) hbad hreason
    refine ⟨_, hexec, hframe, (failsCheck_strike l u l).1 hfails, hbytes, ?_⟩
    rw [← lostNotice_strike s l u]
    exact (givesAndDrains_strike l u _).1 hgives
  · refine hrefused hgood _ ?_
    rw [State.writeRefusal_of_valid _ _ (by rw [hrec]; exact hc) (by rw [hrec]; exact hp), hrec,
      (LineRecord.beginsPost_iff r).2 hbegins, (version_eq_max_iff _).2 hversion]
    rfl

/-! ## Writes that are taken -/

/-- The word's bytes are stored by a merge of the enabled positions (R2, R18). -/
theorem State.storesWord_writeLine {s : State} (la : BitVec 15) (be : BitVec 4) (ld : Word)
    (hc : s.uncleared (lineOf la) = false) :
    StoresWord s
      (s.writeLine (lineOf la)
        (Mask.merge (enabledMask (wordOf la) be) 0 (s.lineBytes (lineOf la)) (enabledBytes be ld))) la be ld := by
  obtain ⟨hin, hout⟩ := State.storesLine_writeLine (line := lineOf la)
    (bytes := Mask.merge (enabledMask (wordOf la) be) 0 (s.lineBytes (lineOf la)) (enabledBytes be ld)) hc
    (by simp [Mask.merge_length])
  refine ⟨fun p hp => (hin p hp).trans ?_, hout⟩
  rw [← State.lineBytes_getD s (lineOf la) hp]
  exact getD_merge_enabled (wordOf_lt la) hp be ld (by simp)

theorem StoresWord.of_sameCells {s t x : State} {la : BitVec 15} {be : BitVec 4} {ld : Word}
    (h : StoresWord s t la be ld) (hx : SameCells t x) : StoresWord s x la be ld := by
  obtain ⟨hin, hout, hgood, hcodes⟩ := h
  exact StoresLine.of_sameCells (bytes := fun p =>
    if p / 4 = wordOf la ∧ be.getLsbD (3 - p % 4) = true then ld.extractLsb' (8 * (3 - p % 4)) 8
    else s.byteAt (32 * lineOf la + p)) ⟨hin, hout, hgood, hcodes⟩ hx

/-- What a write that is taken leaves: the word is stored, and the record moves by `writtenRec` (R49, R51 to R53). -/
theorem State.mergeWrite_spec (s : State) (la : BitVec 15) (be : BitVec 4) (ld : Word)
    (hc : s.uncleared (lineOf la) = false) :
    let w := writtenRec (s.lineRec (lineOf la)) (enabledMask (wordOf la) be) s.config.stationNumber
    let x := s.mergeWrite la be ld
    x = { s with
        mem := x.mem, codes := x.codes, lines := x.lines
        postList := if w.2 = true then s.postList ++ [lineOf la] else s.postList
        access := none, completion := some ⟨true, none⟩ }
      ∧ StoresWord s x la be ld ∧ OnlyRecord s x (lineOf la) w.1 := by
  intro w x
  have hstores := State.storesWord_writeLine la be ld hc
  have hcells := State.cellsOf_writeLine s (lineOf la)
    (Mask.merge (enabledMask (wordOf la) be) 0 (s.lineBytes (lineOf la)) (enabledBytes be ld))
  have hx : x = s.mergeWrite la be ld := rfl
  clear_value x
  unfold State.mergeWrite at hx
  dsimp only at hx
  rw [show writtenRec (s.lineRec (lineOf la)) (enabledMask (wordOf la) be) s.config.stationNumber = w from rfl] at hx
  generalize s.writeLine (lineOf la) _ = t at hx hstores hcells
  have hv : t.setRec (lineOf la) w.1 = { t with lines := (t.setRec (lineOf la) w.1).lines } := rfl
  have hrec := State.onlyRecord_setRec t (lineOf la) w.1
  generalize t.setRec (lineOf la) w.1 = v at hx hv hrec
  have hxv : x = { v with
      postList := if w.2 = true then s.postList ++ [lineOf la] else s.postList, access := none
      completion := some ⟨true, none⟩ } := hx
  have hlines : x.lines = v.lines := by rw [hxv]
  obtain ⟨hsame, hother⟩ := hrec
  refine ⟨?_, hstores.of_sameCells ⟨by rw [hxv, hv], by rw [hxv, hv], by rw [hxv, hv], by rw [hxv, hv]⟩,
    (State.lineRec_congr hlines _).trans hsame,
    fun k hk => (State.lineRec_congr hlines k).trans ((hother k hk).trans (State.CellsOf.lineRec hcells k))⟩
  rw [hxv, hv, hcells]

/-- The record that a write taken with no post waiting leaves: a post begins on top of the current stamp (R51, R52). -/
theorem writtenRec_of_no_post {r : LineRecord} (h : r.pending.post = none) (mask : Mask) (n : Byte) :
    writtenRec r mask n =
      ({ r with
        stamp := r.stamp.next n
        pending :=
          match r.pending.flight with
          | none => .posted ⟨r.stamp, mask, false⟩
          | some f => .inflightPosted f ⟨r.stamp, mask, false⟩ }, true) := by
  unfold writtenRec
  cases hp : r.pending <;> simp_all [Pending.post, Pending.flight]

/-- A write taken with a post waiting joins it, or begins one under the next version on a POSTED line whose base stamp is its
current stamp (R53). -/
theorem writtenRec_of_post {r : LineRecord} {p : Post} (h : r.pending.post = some p) (mask : Mask) (n : Byte) :
    writtenRec r mask n =
      (if r.pending = .posted p ∧ p.base = r.stamp then { r with stamp := r.stamp.next n }
        else { r with
          pending :=
            match r.pending.flight with
            | none => .posted { p with mask := p.mask ||| mask }
            | some f => .inflightPosted f { p with mask := p.mask ||| mask } }, false) := by
  unfold writtenRec
  cases hp : r.pending with
  | idle => simp [hp, Pending.post] at h
  | inflight f => simp [hp, Pending.post] at h
  | posted q =>
    obtain rfl : q = p := by simpa [hp, Pending.post] using h
    by_cases hb : q.base = r.stamp <;> simp [hb, Pending.flight]
  | inflightPosted f q =>
    obtain rfl : q = p := by simpa [hp, Pending.post] using h
    simp [Pending.flight]

/-- The next stamp has the next version, and the station number field as its writer (R4, R54; log 9). -/
theorem Stamp.next_version {c : Stamp} (n : Byte) (h : c.version.toNat < 281474976710655) :
    (c.next n).version.toNat = c.version.toNat + 1 := by
  unfold Stamp.next
  bv_omega

/-- A granted write whose check is good and that has no version to run out of is taken (R49, R50). -/
theorem exec_writeClaimGranted_of_taken {s : State} {a : Access} {be : BitVec 4} {ld : Word} (u : Option Upset)
    (hacts : GrantActs s a) (hkind : a.kind = .write be ld) (hp : (s.lineRec (lineOf a.la)).applyPending = false)
    (hc : (s.lineRec (lineOf a.la)).content = .valid) (hgood : (s.strike (lineOf a.la) u).checkGood (lineOf a.la) = true)
    (hversion : (s.lineRec (lineOf a.la)).beginsPost = true →
      (s.lineRec (lineOf a.la)).stamp.version.toNat < 281474976710655) :
    exec (.writeClaimGranted u) s = .next ((s.granted a u).mergeWrite a.la be ld)
      ∧ (s.granted a u).uncleared (lineOf a.la) = false := by
  have hrec := s.granted_lineRec a u (lineOf a.la)
  have htaken : (s.granted a u).writeRefusal (lineOf a.la) true = none := by
    rw [State.writeRefusal_of_valid _ _ (by rw [hrec]; exact hc) (by rw [hrec]; exact hp), hrec, if_neg]
    intro hlimit
    obtain ⟨hbegins, hmax⟩ := Bool.and_eq_true_iff.1 hlimit
    have := hversion hbegins
    have := (version_eq_max_iff _).1 (beq_iff_eq.1 hmax)
    omega
  refine ⟨?_, ?_⟩
  · rw [exec_writeClaimGranted_of_acts u hacts hkind, ← State.granted]
    exact congrArg _ (State.writeWord_of_taken (s.granted a u) a.la be ld hgood htaken)
  · obtain ⟨-, hgrant, -⟩ := hacts
    have hphase : (s.granted a u).phase = s.phase := s.strike_phase (lineOf a.la) u
    rw [State.uncleared_congr hphase]
    exact State.uncleared_of_open (State.open_of_grantsLocal hgrant) _

/-- A granted write that is taken, told from the state before it and from the struck line. -/
theorem State.granted_mergeWrite (s : State) (a : Access) (u : Option Upset) (be : BitVec 4) (ld : Word)
    {r : LineRecord} {joins : Bool}
    (hw : writtenRec (s.lineRec (lineOf a.la)) (enabledMask (wordOf a.la) be) s.config.stationNumber = (r, joins))
    (hc : (s.granted a u).uncleared (lineOf a.la) = false) :
    let x := (s.granted a u).mergeWrite a.la be ld
    x = { s.strike (lineOf a.la) u with
        mem := x.mem, codes := x.codes, lines := x.lines
        postList := if joins = true then s.postList ++ [lineOf a.la] else s.postList
        hold := holdAtGrant s a, access := none, completion := some ⟨true, none⟩ }
      ∧ StoresWord (s.strike (lineOf a.la) u) x a.la be ld ∧ OnlyRecord s x (lineOf a.la) r := by
  have hconfig : (s.granted a u).config = s.config := s.strike_config (lineOf a.la) u
  have hposts : (s.granted a u).postList = s.postList := s.strike_postList (lineOf a.la) u
  have hwritten : writtenRec ((s.granted a u).lineRec (lineOf a.la)) (enabledMask (wordOf a.la) be)
      (s.granted a u).config.stationNumber = (r, joins) := by
    rw [s.granted_lineRec a u, hconfig, hw]
  have hspec := (s.granted a u).mergeWrite_spec a.la be ld hc
  rw [hwritten, hposts] at hspec
  obtain ⟨hframe, hstores, hsame, hother⟩ := hspec
  exact ⟨hframe, hstores, hsame, fun k hk => (hother k hk).trans (s.granted_lineRec a u k)⟩

/-- Settles O11: with no post waiting the write begins one. -/
theorem localWriteBeginsAPost : Obligations.LocalWriteBeginsAPost := by
  unfold Obligations.LocalWriteBeginsAPost
  intro s a be ld u hacts hkind hp hc hgood hpost hversion
  obtain ⟨hexec, hcleared⟩ := exec_writeClaimGranted_of_taken u hacts hkind hp hc hgood fun _ => hversion
  obtain ⟨hframe, hstores, hrec⟩ := s.granted_mergeWrite a u be ld (writtenRec_of_no_post hpost _ _) hcleared
  refine ⟨_, _, _, hexec, ?_, hstores, hrec, Stamp.next_version _ hversion, rfl,
    fun p hp => Mask.has_enabledMask (wordOf_lt a.la) hp be⟩
  exact hframe

/-- Settles O12: with a post waiting the write joins it, or begins one under the next version on a POSTED line whose base
stamp is its current stamp. -/
theorem localWriteJoinsAWaitingPost : Obligations.LocalWriteJoinsAWaitingPost := by
  unfold Obligations.LocalWriteJoinsAWaitingPost
  intro s a be ld u p hacts hkind hp hc hgood hpost hversion
  have hbegins : (s.lineRec (lineOf a.la)).beginsPost = true →
      (s.lineRec (lineOf a.la)).stamp.version.toNat < 281474976710655 := by
    rw [LineRecord.beginsPost_iff]
    rintro (hnone | ⟨q, hq, hbase⟩)
    · rw [hnone] at hpost
      cases hpost
    · obtain rfl : q = p := by simpa [hq, Pending.post] using hpost
      exact hversion hq hbase
  obtain ⟨hexec, hcleared⟩ := exec_writeClaimGranted_of_taken u hacts hkind hp hc hgood hbegins
  obtain ⟨hframe, hstores, hrec⟩ := s.granted_mergeWrite a u be ld (writtenRec_of_post hpost _ _) hcleared
  refine ⟨_, (s.lineRec (lineOf a.la)).stamp.next s.config.stationNumber, p.mask ||| enabledMask (wordOf a.la) be, hexec,
    ?_, hstores, fun q hq => ?_, ?_⟩
  · refine hframe.trans ?_
    rw [if_neg Bool.false_ne_true, ← s.strike_postList (lineOf a.la) u]
  · rw [Mask.has_or, Mask.has_enabledMask (wordOf_lt a.la) hq be]
  · split
    · next hnew =>
      rw [if_pos hnew] at hrec
      exact ⟨hrec, Stamp.next_version _ (hversion hnew.1 hnew.2), rfl⟩
    · next hjoins =>
      rw [if_neg hjoins] at hrec
      exact hrec

end Sys2Proof.Machine

/-! # Fetched builds: posts, answers, due transmissions -/

namespace Sys2Proof.Machine

section
variable {s : State}

/-! ## A fetch that finds a failing check -/

/-- What a build that its line's failing check ends leaves (R66, R73, R97 to R102, R195). -/
theorem State.checkFailure_abandonBuild (s : State) (line : Nat) :
    let x := (s.checkFailure line).abandonBuild.drainTest
    x = { s with
        lines := x.lines, repairList := x.repairList, postList := x.postList, build := none
        notices := x.notices, drainPending := x.drainPending }
      ∧ FailsCheck s x line ∧ GivesAndDrains s x (lostNotice s line) ∧ SameBytes s x := by
  intro x
  obtain ⟨⟨hsame, hother⟩, hrepair, hpost⟩ := s.checkFailure_fails line
  have hgives := s.checkFailure_gives line
  have hframe := s.checkFailure_frame line
  have hx : x = (s.checkFailure line).abandonBuild.drainTest := rfl
  clear_value x
  generalize s.checkFailure line = t at *
  have hdrain := givesAndDrains_drainTest (s := s) (t := t.abandonBuild) hgives (by rw [hframe]; rfl)
  have hxframe := t.abandonBuild.drainTest_frame
  rw [← hx] at hdrain hxframe
  have hlines : x.lines = t.lines := by rw [hxframe]; rfl
  have hrepairs : x.repairList = t.repairList := by rw [hxframe]; rfl
  have hposts : x.postList = t.postList := by rw [hxframe]; rfl
  have hall : x = { s with
      lines := x.lines, repairList := x.repairList, postList := x.postList, build := none
      notices := x.notices, drainPending := x.drainPending } := by
    rw [hlines, hrepairs, hposts]
    refine hxframe.trans ?_
    rw [hframe]
    rfl
  exact ⟨hall, ⟨⟨(State.lineRec_congr hlines _).trans hsame, fun k hk => (State.lineRec_congr hlines k).trans (hother k hk)⟩,
    hrepairs.trans hrepair, hposts.trans hpost⟩, hdrain,
    sameBytes_of_cells (by rw [hall]) (by rw [hall]) (by rw [hall])⟩

/-! ## Posts -/

theorem exec_postBuild_of_granted {l : Nat} (u : Option Upset) (h : FetchGranted s (.post l)) :
    exec (.postBuild u) s = .next ((s.strike l u).buildPost l) := by
  obtain ⟨hbuild, hgrant⟩ := h
  simp [exec, execPostBuild, hbuild, hgrant]

theorem State.buildPost_of_bad {l : Nat} (h : s.checkGood l = false) :
    s.buildPost l = (s.checkFailure l).abandonBuild.drainTest := by
  simp [State.buildPost, h]

theorem State.buildPost_of_not_posted {l : Nat} (h : s.checkGood l = true) (hp : ∀ p, (s.lineRec l).pending ≠ .posted p) :
    s.buildPost l = { s with build := none } := by
  have habandon : s.abandonBuild = { s with build := none } := rfl
  unfold State.buildPost
  rw [if_neg (by simp [h])]
  dsimp only
  split
  · next p i hpost hslot => exact absurd hpost (hp p)
  · exact habandon

/-- The line's bytes at the positions of a mask, in their order (R65, R199). -/
theorem State.select_lineBytes (s : State) (m : Mask) (l : Nat) :
    Mask.select m 0 (s.lineBytes l) =
      ((List.range 32).filter fun q => Mask.has m q).map fun q => s.byteAt (32 * l + q) := by
  rw [Mask.select_eq, State.lineBytes_length]
  simp only [Nat.zero_add]
  refine List.map_congr_left fun q hq => s.lineBytes_getD l ?_
  exact List.mem_range.1 (List.mem_filter.1 hq).1

/-- The frame that carries a post, as a DELTA or as a FULL (R65). -/
theorem State.postFrame_eq (s : State) (i : SlotNo) (l : Nat) (r : LineRecord) (p : Post) :
    s.postFrame i l r p =
      if s.config.deltaEnable = 1 ∧ popcount p.mask ≤ 20 ∧ p.mustFull = false then
        Frame.delta s.config.ringSpan s.config.stationNumber (Frame.slotTag i (s.slot i).generation) l r.stamp p.base p.mask
          (((List.range 32).filter fun q => Mask.has p.mask q).map fun q => s.byteAt (32 * l + q))
      else ownFull s false (Frame.slotTag i (s.slot i).generation) l r.stamp := by
  have hcarries : s.carriesDelta p = true ↔ s.config.deltaEnable = 1 ∧ popcount p.mask ≤ 20 ∧ p.mustFull = false := by
    simp [State.carriesDelta, and_assoc]
  unfold State.postFrame
  dsimp only
  rw [s.select_lineBytes]
  exact if_congr hcarries rfl rfl

/-- A transmission leaves its slot in use, with nothing due and no deadline, and its generation advanced (R62, R63). -/
theorem State.transmit_onlySlot (s : State) (i : SlotNo) (u : SlotUse) :
    OnlySlot s (s.transmit i u) i ⟨(s.slot i).generation + 1, some { u with due := none, deadline := none }⟩ :=
  ⟨State.slot_setSlot_same _ _ _, fun _ hj => State.slot_setSlot_other _ _ hj⟩

/-- A tracked update that is handed over leaves no drain complete: its slot is in use (R195). -/
theorem State.drainTest_of_transmitted {t : State} {i : SlotNo} {u : SlotUse} (h : (t.slot i).use = some u)
    (hu : u.purpose = .update) : t.drainTest = t :=
  State.drainTest_of_not_drained (State.not_drained_of_slot (i := i) (by simp [Slot.isFor, h, hu]))

/-- A frame of the line handed over from a slot for an update: the slot carries it, the line is INFLIGHT, and its post, if one
waited, is off the Post List (R62, R67, R69). -/
def State.sendUpdate (s : State) (i : SlotNo) (u : SlotUse) (r : LineRecord) (f : List Byte) : State :=
  (((s.transmit i u).setRec u.line { r with pending := .inflight ⟨i, false⟩ }).unpost u.line).handOver f

theorem State.sendUpdate_spec (s : State) (i : SlotNo) (u : SlotUse) (r : LineRecord) (f : List Byte) :
    s.sendUpdate i u r f =
        { s with
          slots := (s.sendUpdate i u r f).slots, lines := (s.sendUpdate i u r f).lines
          postList := s.postList.filter (· != u.line), place := some f, build := none }
      ∧ OnlySlot s (s.sendUpdate i u r f) i
          ⟨(s.slot i).generation + 1, some { u with due := none, deadline := none }⟩
      ∧ OnlyRecord s (s.sendUpdate i u r f) u.line { r with pending := .inflight ⟨i, false⟩ } :=
  ⟨rfl, s.transmit_onlySlot i u, State.onlyRecord_setRec (s.transmit i u) u.line _⟩

theorem State.buildPost_sends {l : Nat} {p : Post} {i : SlotNo} (h : s.checkGood l = true)
    (hp : (s.lineRec l).pending = .posted p) (hi : LowestFree s i) (hroom : s.updateSlots < 14) :
    s.buildPost l =
      s.sendUpdate i ⟨.update, l, (s.lineRec l).stamp, 0, none, none⟩ (s.lineRec l) (s.postFrame i l (s.lineRec l) p) := by
  have hslot : s.updateSlotFor = some i := by
    rw [State.updateSlotFor, if_pos hroom]
    exact State.lowestFree_eq_some.2 hi
  have hsent : s.buildPost l =
      (s.sendUpdate i ⟨.update, l, (s.lineRec l).stamp, 0, none, none⟩ (s.lineRec l)
        (s.postFrame i l (s.lineRec l) p)).drainTest := by
    simp only [State.buildPost, h, hp, hslot]
    rfl
  obtain ⟨-, ⟨hused, -⟩, -⟩ := s.sendUpdate_spec i ⟨.update, l, (s.lineRec l).stamp, 0, none, none⟩ (s.lineRec l)
    (s.postFrame i l (s.lineRec l) p)
  rw [hsent]
  exact State.drainTest_of_transmitted (by rw [hused]) rfl

end

/-- Settles O43: a failing check, a line no longer POSTED, and the post that is sent. -/
theorem postIsFramedOnASlot : Obligations.PostIsFramedOnASlot := by
  unfold Obligations.PostIsFramedOnASlot
  intro s l u hgranted v r
  have hrec : v.lineRec l = r := s.strike_lineRec l u l
  rw [exec_postBuild_of_granted u hgranted]
  refine ⟨fun hbad => ?_, fun hgood hnot => ?_, fun p i hgood hposted hfree hroom => ?_⟩
  · rw [State.buildPost_of_bad hbad]
    obtain ⟨hframe, hfails, hgives, hbytes⟩ := v.checkFailure_abandonBuild l
    rw [lostNotice_strike] at hgives
    exact ⟨_, rfl, hframe, (failsCheck_strike l u l).1 hfails, (givesAndDrains_strike l u _).1 hgives, hbytes⟩
  · rw [State.buildPost_of_not_posted hgood (by rw [hrec]; exact hnot)]
  · have hslot (j : SlotNo) : v.slot j = s.slot j := s.strike_slot l u j
    have hvfree : LowestFree v i := by simpa [LowestFree, hslot] using hfree
    rw [State.buildPost_sends hgood (by rw [hrec]; exact hposted) hvfree (by simpa [v] using hroom), hrec]
    obtain ⟨hframe, ⟨hused, hslots⟩, hsame, hother⟩ :=
      v.sendUpdate_spec i ⟨.update, l, r.stamp, 0, none, none⟩ r (v.postFrame i l r p)
    have hposts : v.postList = s.postList := s.strike_postList l u
    have hconfig : v.config = s.config := s.strike_config l u
    rw [hposts] at hframe
    rw [hslot] at hused
    refine ⟨_, v.postFrame i l r p, rfl, hframe, ⟨hused, fun j hj => (hslots j hj).trans (hslot j)⟩,
      ⟨hsame, fun k hk => (hother k hk).trans (s.strike_lineRec l u k)⟩, ?_⟩
    rw [State.postFrame_eq, hslot, hconfig]

/-! ## Answers -/

theorem exec_answerBuild_of_granted {s : State} {l : Nat} {rest : List Nat} (u : Option Upset) (h : FetchGranted s .answer)
    (hq : s.answerQueue = l :: rest) : exec (.answerBuild u) s = .next ((s.strike l u).buildAnswer l rest) := by
  obtain ⟨hbuild, hgrant⟩ := h
  simp [exec, execAnswerBuild, hbuild, hgrant, hq]

theorem State.buildAnswer_of_bad {s : State} {l : Nat} {rest : List Nat} (h : s.checkGood l = false) :
    s.buildAnswer l rest = (({ s with answerQueue := rest } : State).checkFailure l).abandonBuild.drainTest := by
  have hbad : ({ s with answerQueue := rest } : State).checkGood l = false := h
  simp [State.buildAnswer, hbad]

/-- With a good check the record decides whether the answer is sent or dropped (R64, R73). -/
theorem State.buildAnswer_of_good {s : State} {l : Nat} {rest : List Nat} (h : s.checkGood l = true) :
    s.buildAnswer l rest =
      if (s.lineRec l).answerable = true then
        { s with answerQueue := rest, build := none, place := some (ownFull s true 0 l (s.lineRec l).stamp) }
      else { s with answerQueue := rest, build := none } := by
  have hgood : ({ s with answerQueue := rest } : State).checkGood l = true := h
  unfold State.buildAnswer
  dsimp only
  rw [if_neg (by simp [hgood])]
  rfl

/-- Settles O46: a failing check, an answer that is sent, and one that is dropped. -/
theorem answerIsBuiltOrDropped : Obligations.AnswerIsBuiltOrDropped := by
  unfold Obligations.AnswerIsBuiltOrDropped
  intro s l rest u hgranted hq v r
  have hrec : v.lineRec l = r := s.strike_lineRec l u l
  have hanswerable := LineRecord.answerable_iff r
  rw [exec_answerBuild_of_granted u hgranted hq]
  refine ⟨fun hbad => ?_, fun hgood hc ha hp => ?_, fun hgood hdrop => ?_⟩
  · rw [State.buildAnswer_of_bad hbad]
    obtain ⟨hframe, hfails, hgives, hbytes⟩ := ({ v with answerQueue := rest } : State).checkFailure_abandonBuild l
    have hlost : lostNotice ({ v with answerQueue := rest } : State) l = lostNotice s l := lostNotice_strike s l u l
    rw [hlost] at hgives
    exact ⟨_, rfl, hframe, (failsCheck_strike l u l).1 hfails, (givesAndDrains_strike l u _).1 hgives, hbytes⟩
  · rw [State.buildAnswer_of_good hgood, hrec, if_pos (hanswerable.2 ⟨hc, ha, hp⟩)]
  · have hnot : ¬ r.answerable = true := fun hfit => by
      obtain ⟨hc, ha, hp⟩ := hanswerable.1 hfit
      rcases hdrop with h | h | h
      · exact h hc
      · rw [ha] at h
        cases h
      · exact h hp
    rw [State.buildAnswer_of_good hgood, hrec, if_neg hnot]

/-! ## Due transmissions -/

section
variable {s : State} {i : SlotNo} {u : SlotUse}

theorem exec_mendResendBuild_of_granted (up : Option Upset) (h : FetchGranted s (.mendResend i))
    (hu : (s.slot i).use = some u) :
    exec (.mendResendBuild up) s = .next ((s.strike u.line up).buildMendResend i u) := by
  obtain ⟨hbuild, hgrant⟩ := h
  simp [exec, execMendResendBuild, hbuild, hgrant, hu]

theorem exec_replacementBuild_of_granted (up : Option Upset) (h : FetchGranted s (.replacement i))
    (hu : (s.slot i).use = some u) :
    exec (.replacementBuild up) s = .next ((s.strike u.line up).buildReplacement i u) := by
  obtain ⟨hbuild, hgrant⟩ := h
  simp [exec, execReplacementBuild, hbuild, hgrant, hu]

/-- A mend or a resend is fit when its line is INFLIGHT by its slot, not superseded, and VALID with a good check (R68). -/
def State.MendFit (s : State) (i : SlotNo) (line : Nat) : Prop :=
  s.checkGood line = true ∧ (s.lineRec line).pending = .inflight ⟨i, false⟩ ∧ (s.lineRec line).content = .valid

/-- A replacement is fit when its line is INFLIGHT_POSTED by its slot, not superseded, and VALID with a good check (R69). -/
def State.ReplacementFit (s : State) (i : SlotNo) (line : Nat) : Prop :=
  s.checkGood line = true ∧ (∃ p, (s.lineRec line).pending = .inflightPosted ⟨i, false⟩ p)
    ∧ (s.lineRec line).content = .valid

/-- The effects of a failing check act before an unfit transmission frees its slot (R70, R97). -/
def State.unfit (s : State) (i : SlotNo) (line : Nat) : State :=
  if s.checkGood line = true then s.freeUnfit i line else (s.checkFailure line).freeUnfit i line

theorem State.buildMendResend_of_fit (h : s.MendFit i u.line) :
    s.buildMendResend i u =
      (s.transmit i u).handOver (ownFull s false (Frame.slotTag i (s.slot i).generation) u.line u.stamp) := by
  obtain ⟨hgood, hp, hc⟩ := h
  unfold State.buildMendResend
  rw [if_neg (by simp [hgood])]
  exact if_pos ⟨hp, hc⟩

theorem State.buildMendResend_of_unfit (h : ¬ s.MendFit i u.line) : s.buildMendResend i u = s.unfit i u.line := by
  unfold State.buildMendResend State.unfit
  cases hgood : s.checkGood u.line with
  | false => simp
  | true =>
    rw [if_neg (by simp), if_pos rfl]
    exact if_neg fun hfit => h ⟨hgood, hfit⟩

theorem State.buildReplacement_of_fit (hu : u.purpose = .update) {p : Post} (hgood : s.checkGood u.line = true)
    (hp : (s.lineRec u.line).pending = .inflightPosted ⟨i, false⟩ p) (hc : (s.lineRec u.line).content = .valid) :
    s.buildReplacement i u =
      s.sendUpdate i { u with stamp := (s.lineRec u.line).stamp } (s.lineRec u.line)
        (ownFull s false (Frame.slotTag i (s.slot i).generation) u.line (s.lineRec u.line).stamp) := by
  have hsent : s.buildReplacement i u =
      (s.sendUpdate i { u with stamp := (s.lineRec u.line).stamp } (s.lineRec u.line)
        (ownFull s false (Frame.slotTag i (s.slot i).generation) u.line (s.lineRec u.line).stamp)).drainTest := by
    unfold State.buildReplacement
    rw [if_neg (by simp [hgood])]
    simp only [hp]
    rw [if_pos ⟨trivial, hc⟩]
    rfl
  obtain ⟨-, ⟨hused, -⟩, -⟩ := s.sendUpdate_spec i { u with stamp := (s.lineRec u.line).stamp } (s.lineRec u.line)
    (ownFull s false (Frame.slotTag i (s.slot i).generation) u.line (s.lineRec u.line).stamp)
  rw [hsent]
  exact State.drainTest_of_transmitted (congrArg Slot.use hused) hu

theorem State.buildReplacement_of_unfit (h : ¬ s.ReplacementFit i u.line) :
    s.buildReplacement i u = s.unfit i u.line := by
  unfold State.buildReplacement State.unfit
  cases hgood : s.checkGood u.line with
  | false => simp
  | true =>
    rw [if_neg (by simp), if_pos rfl]
    dsimp only
    split
    · next f p hp =>
      refine if_neg fun hfit => h ⟨hgood, ⟨p, ?_⟩, hfit.2⟩
      rw [hp, hfit.1]
    · rfl
    · rfl
    · rfl

end

/-- Settles O44: both kinds are fit, and each sends its FULL from its slot. -/
theorem dueTransmissionsOfFitLines : Obligations.DueTransmissionsOfFitLines := by
  unfold Obligations.DueTransmissionsOfFitLines
  intro s i u up hused hpurpose v r tag
  have hrec : v.lineRec u.line = r := s.strike_lineRec u.line up u.line
  have hslot (j : SlotNo) : v.slot j = s.slot j := s.strike_slot u.line up j
  have htag : Frame.slotTag i (v.slot i).generation = tag := by rw [hslot]
  refine ⟨fun hgranted hgood hp hc => ?_, fun p hgranted hgood hp hc => ?_⟩
  · rw [exec_mendResendBuild_of_granted up hgranted hused,
      State.buildMendResend_of_fit ⟨hgood, by rw [hrec]; exact hp, by rw [hrec]; exact hc⟩, htag]
    obtain ⟨hsame, hother⟩ := v.transmit_onlySlot i u
    rw [hslot] at hsame
    exact ⟨_, rfl, rfl, hsame, fun j hj => (hother j hj).trans (hslot j)⟩
  · rw [exec_replacementBuild_of_granted up hgranted hused,
      State.buildReplacement_of_fit hpurpose hgood (by rw [hrec]; exact hp) (by rw [hrec]; exact hc), htag, hrec]
    obtain ⟨hframe, ⟨hsame, hother⟩, hline, hlines⟩ :=
      v.sendUpdate_spec i { u with stamp := r.stamp } r (ownFull v false tag u.line r.stamp)
    have hposts : v.postList = s.postList := s.strike_postList u.line up
    rw [hposts] at hframe
    rw [hslot] at hsame
    exact ⟨_, rfl, hframe, ⟨hsame, fun j hj => (hother j hj).trans (hslot j)⟩, hline,
      fun k hk => (hlines k hk).trans (s.strike_lineRec u.line up k)⟩

end Sys2Proof.Machine

/-! # Due transmissions of lines that are not fit -/

namespace Sys2Proof.Machine

/-- The pending state once a transmission found unfit has freed the slot (R70, R71). -/
def Pending.unfitted (i : SlotNo) : Pending → Pending
  | .inflight f => if f.slot = i then .idle else .inflight f
  | .inflightPosted f p =>
    if f.slot = i then .posted { p with mustFull := p.mustFull || !f.superseded } else .inflightPosted f p
  | .idle => .idle
  | .posted p => .posted p

/-- With the post withdrawn by a failing check, only the flight decides (R70, R97). -/
theorem Pending.unfitted_withoutPost (i : SlotNo) (p : Pending) :
    p.withoutPost.unfitted i =
      match p.flight with
      | some f => if f.slot = i then .idle else .inflight f
      | none => .idle := by
  cases p <;> rfl

/-- Whether a pending state carries a flight that is superseded. -/
def Pending.isSuperseded : Pending → Bool
  | .inflight f | .inflightPosted f _ => f.superseded
  | .idle | .posted _ => false

namespace State

/-- The slot freed and its line moved, the drain aside (R70, R71). -/
def unfitFreed (s : State) (i : SlotNo) (line : Nat) : State :=
  ((s.freeSlot i).endFlight i line (!(s.lineRec line).pending.isSuperseded)).abandonBuild

theorem freeUnfit_eq (s : State) (i : SlotNo) (line : Nat) : s.freeUnfit i line = (s.unfitFreed i line).drainTest := by
  unfold freeUnfit unfitFreed Pending.isSuperseded
  cases (s.lineRec line).pending <;> rfl

theorem unfitFreed_frame (s : State) (i : SlotNo) (line : Nat) :
    s.unfitFreed i line =
      { s with slots := (s.freeSlot i).slots, lines := (s.unfitFreed i line).lines, build := none } := by
  unfold unfitFreed
  rw [endFlight_frame]
  rfl

theorem onlyRecord_unfitFreed (s : State) (i : SlotNo) (line : Nat) :
    OnlyRecord s (s.unfitFreed i line) line
      { s.lineRec line with pending := (s.lineRec line).pending.unfitted i } := by
  refine ⟨((s.freeSlot i).endFlight_rec i line _).trans ?_, fun k hk => (s.freeSlot i).lineRec_endFlight_other i _ hk⟩
  rw [lineRec_freeSlot]
  unfold Pending.unfitted Pending.isSuperseded
  cases (s.lineRec line).pending <;> rfl

/-- What a transmission found unfit leaves, its drain told from the start of the step (R70, R71, R195). -/
theorem freeUnfit_spec (s : State) (i : SlotNo) (line : Nat) {start : State} {ns : List Notice}
    (hn : s.notices = noticesAfter start.notices ns) (hd : s.drainPending = start.drainPending) :
    let x := s.freeUnfit i line
    x = { s with
        slots := x.slots, lines := x.lines, build := none, notices := x.notices, drainPending := x.drainPending }
      ∧ OnlySlot s x i { s.slot i with use := none }
      ∧ OnlyRecord s x line { s.lineRec line with pending := (s.lineRec line).pending.unfitted i }
      ∧ GivesAndDrains start x ns := by
  intro x
  have hx : x = (s.unfitFreed i line).drainTest := s.freeUnfit_eq i line
  have hframe := s.unfitFreed_frame i line
  obtain ⟨hsame, hother⟩ := s.onlyRecord_unfitFreed i line
  clear_value x
  generalize s.unfitFreed i line = t at *
  have hdrain := givesAndDrains_drainTest (s := start) (t := t) (ns := ns) (by rw [hframe]; exact hn) (by rw [hframe]; exact hd)
  have hxframe := t.drainTest_frame
  rw [← hx] at hdrain hxframe
  have hlines : x.lines = t.lines := by rw [hxframe]
  have hslots : x.slots = (s.freeSlot i).slots := by rw [hxframe, hframe]
  have hslot (j : SlotNo) : x.slot j = (s.freeSlot i).slot j := by rw [slot, hslots, slot]
  refine ⟨?_, ⟨(hslot i).trans (s.slot_freeSlot_same i), fun j hj => (hslot j).trans (s.slot_freeSlot_other hj)⟩,
    ⟨(lineRec_congr hlines _).trans hsame, fun k hk => (lineRec_congr hlines k).trans (hother k hk)⟩, hdrain⟩
  rw [hlines, hslots]
  refine hxframe.trans ?_
  rw [hframe]

/-- What an unfit transmission leaves whose line has a good check (R70, R71). -/
theorem unfit_of_good {s : State} {line : Nat} (i : SlotNo) (h : s.checkGood line = true) :
    let x := s.unfit i line
    x = { s with
        slots := x.slots, lines := x.lines, build := none, notices := x.notices, drainPending := x.drainPending }
      ∧ OnlySlot s x i { s.slot i with use := none }
      ∧ OnlyRecord s x line { s.lineRec line with pending := (s.lineRec line).pending.unfitted i }
      ∧ GivesAndDrains s x [] := by
  rw [unfit, if_pos h]
  exact s.freeUnfit_spec i line rfl rfl

/-- What an unfit transmission leaves whose line has a failing check (R70, R71, R97). -/
theorem unfit_of_bad {s : State} {line : Nat} (i : SlotNo) (h : s.checkGood line = false) :
    let x := s.unfit i line
    x = { s with
        slots := x.slots, lines := x.lines, repairList := x.repairList, postList := x.postList, build := none
        notices := x.notices, drainPending := x.drainPending }
      ∧ OnlySlot s x i { s.slot i with use := none }
      ∧ FailureLists s x line ∧ GivesAndDrains s x (lostNotice s line)
      ∧ OnlyRecord s x line
          { failedRecord s line with pending := (s.lineRec line).pending.withoutPost.unfitted i } := by
  rw [unfit, if_neg (by simp [h])]
  intro x
  obtain ⟨⟨hrec, hothers⟩, hrepair, hpost⟩ := s.checkFailure_fails line
  have hgives := s.checkFailure_gives line
  have hframe := s.checkFailure_frame line
  have hx : x = (s.checkFailure line).freeUnfit i line := rfl
  clear_value x
  generalize s.checkFailure line = t at *
  have hslot (j : SlotNo) : t.slot j = s.slot j := by rw [hframe]; rfl
  obtain ⟨hxframe, ⟨hfreed, hslots⟩, ⟨hsame, hother⟩, hdrain⟩ :=
    t.freeUnfit_spec i line (start := s) hgives (by rw [hframe])
  rw [← hx] at hxframe hfreed hslots hsame hother hdrain
  rw [hslot] at hfreed
  rw [hrec] at hsame
  have hrepairs : x.repairList = t.repairList := by rw [hxframe]
  have hposts : x.postList = t.postList := by rw [hxframe]
  refine ⟨?_, ⟨hfreed, fun j hj => (hslots j hj).trans (hslot j)⟩, ⟨hrepairs.trans hrepair, hposts.trans hpost⟩, hdrain,
    hsame, fun k hk => (hother k hk).trans (hothers k hk)⟩
  rw [hrepairs, hposts]
  refine hxframe.trans ?_
  rw [hframe]

end State

/-- An unfit transmission of either kind frees its slot after the effects of a failing check (R70). -/
theorem exec_of_unfit {s : State} {i : SlotNo} {u : SlotUse} {up : Option Upset} {c : Instr} (hused : (s.slot i).use = some u)
    (h : (c = .mendResendBuild up ∧ FetchGranted s (.mendResend i)
        ∧ ¬ ((s.strike u.line up).checkGood u.line = true ∧ (s.lineRec u.line).pending = .inflight ⟨i, false⟩
          ∧ (s.lineRec u.line).content = .valid))
      ∨ (c = .replacementBuild up ∧ FetchGranted s (.replacement i)
        ∧ ¬ ((s.strike u.line up).checkGood u.line = true
          ∧ (∃ p, (s.lineRec u.line).pending = .inflightPosted ⟨i, false⟩ p) ∧ (s.lineRec u.line).content = .valid))) :
    exec c s = .next ((s.strike u.line up).unfit i u.line) := by
  have hrec := s.strike_lineRec u.line up u.line
  rcases h with ⟨rfl, hgranted, hunfit⟩ | ⟨rfl, hgranted, hunfit⟩
  · rw [exec_mendResendBuild_of_granted up hgranted hused, State.buildMendResend_of_unfit]
    rwa [State.MendFit, hrec]
  · rw [exec_replacementBuild_of_granted up hgranted hused, State.buildReplacement_of_unfit]
    rwa [State.ReplacementFit, hrec]

/-- Settles O45: both kinds take the same course, by the line's check. -/
theorem unfitTransmissionFreesItsSlot : Obligations.UnfitTransmissionFreesItsSlot := by
  unfold Obligations.UnfitTransmissionFreesItsSlot
  intro s i u up c hused v r h
  have hexec := exec_of_unfit hused h
  have hrec : v.lineRec u.line = r := s.strike_lineRec u.line up u.line
  have hslot : v.slot i = s.slot i := s.strike_slot u.line up i
  have hslots (x : State) (y : Slot) (hx : OnlySlot v x i y) : OnlySlot s x i y :=
    ⟨hx.1, fun j hj => (hx.2 j hj).trans (s.strike_slot u.line up j)⟩
  have hposts : v.postList = s.postList := s.strike_postList u.line up
  have hrepairs : v.repairList = s.repairList := s.strike_repairList u.line up
  refine ⟨_, hexec, ?_⟩
  cases hcheck : v.checkGood u.line with
  | true =>
    obtain ⟨hframe, hfreed, honly, hgives⟩ := State.unfit_of_good i hcheck
    rw [hslot] at hfreed
    rw [hrec] at honly
    generalize v.unfit i u.line = x at *
    have hxposts : x.postList = v.postList := by rw [hframe]
    have hxrepairs : x.repairList = v.repairList := by rw [hframe]
    refine ⟨?_, hslots x _ hfreed, sameBytes_of_cells (by rw [hframe]) (by rw [hframe]) (by rw [hframe]),
      fun _ => ⟨hxrepairs.trans hrepairs, hxposts.trans hposts, (givesAndDrains_strike u.line up _).1 hgives, ?_⟩, nofun⟩
    · rw [hxposts, hxrepairs]
      exact hframe
    · refine (onlyRecord_strike u.line up u.line _).1 ?_
      convert honly using 2
      cases r.pending <;> rfl
  | false =>
    obtain ⟨hframe, hfreed, hlists, hgives, honly⟩ := State.unfit_of_bad i hcheck
    rw [hslot] at hfreed
    rw [hrec, Pending.unfitted_withoutPost] at honly
    rw [lostNotice_strike] at hgives
    have hfailed : failedRecord v u.line = failedRecord s u.line := by
      simp only [failedRecord, hrec, hrepairs]
      rfl
    rw [hfailed] at honly
    generalize v.unfit i u.line = x at *
    refine ⟨hframe, hslots x _ hfreed, sameBytes_of_cells (by rw [hframe]) (by rw [hframe]) (by rw [hframe]),
      nofun, fun _ => ⟨?_, (givesAndDrains_strike u.line up _).1 hgives, ?_⟩⟩
    · simpa [FailureLists, v] using hlists
    · refine (onlyRecord_strike u.line up u.line _).1 ?_
      refine Eq.mp (congrArg (OnlyRecord v x u.line) ?_) honly
      cases r.pending <;> rfl

end Sys2Proof.Machine

namespace Sys2Proof.Machine

/-! ## The abandonment of every slot -/

/-- A line is in flight on a slot exactly while the slot is an UPDATE slot in use that names it (R60). -/
def State.FlightsTracked (s : State) : Prop :=
  ∀ i l, (s.slot i).names .update l = true ↔ (s.lineRec l).pending.flight.map Flight.slot = some i

theorem State.SlotsAgree.flightsTracked {s : State} (h : s.SlotsAgree) : s.FlightsTracked := by
  obtain ⟨hnamed, hflight, -, -⟩ := h
  intro i l
  rw [Option.map_eq_some_iff]
  refine ⟨hflight i l, ?_⟩
  rintro ⟨f, hf, rfl⟩
  exact hnamed l f hf

/-- The line that the abandonment of a slot puts back on the Post List: one INFLIGHT on it, VALID and not superseded
(R95). -/
def State.reposted (s : State) (i : SlotNo) : Option Nat :=
  match (s.slot i).use with
  | some u =>
    if u.purpose = .update ∧ (s.lineRec u.line).pending = .inflight ⟨i, false⟩
        ∧ (s.lineRec u.line).content = .valid then some u.line
    else none
  | none => none

/-- The record of a line once the slots of a list are abandoned (R95). -/
def LineRecord.abandonedOn (r : LineRecord) (is : List SlotNo) : LineRecord :=
  if ∃ i ∈ is, r.pending.flight.map Flight.slot = some i then { r with pending := r.pendingAbandoned } else r

theorem LineRecord.abandonedOn_of_not_mem {r : LineRecord} {is : List SlotNo}
    (h : ∀ i ∈ is, r.pending.flight.map Flight.slot ≠ some i) : r.abandonedOn is = r :=
  if_neg fun ⟨i, hi, hf⟩ => h i hi hf

theorem LineRecord.abandonedOn_of_mem {r : LineRecord} {i : SlotNo} {is : List SlotNo} (hi : i ∈ is)
    (hf : r.pending.flight.map Flight.slot = some i) : r.abandonedOn is = { r with pending := r.pendingAbandoned } :=
  if_pos ⟨i, hi, hf⟩

theorem LineRecord.pendingAbandoned_of_noFlight {r : LineRecord} (h : r.pending.flight = none) :
    r.pendingAbandoned = r.pending := by
  unfold LineRecord.pendingAbandoned
  cases hp : r.pending <;> simp_all [Pending.flight]

theorem LineRecord.abandonedOn_all (r : LineRecord) :
    r.abandonedOn allSlots = { r with pending := r.pendingAbandoned } := by
  cases hf : r.pending.flight with
  | none => rw [abandonedOn_of_not_mem (by simp [hf]), pendingAbandoned_of_noFlight hf]
  | some f => exact abandonedOn_of_mem (mem_allSlots f.slot) (by rw [hf]; rfl)

/-- A line abandoned on one slot is not in flight, so it stays as it is when further slots are abandoned. -/
theorem LineRecord.abandonedOn_cons (r : LineRecord) (i : SlotNo) (is : List SlotNo) :
    (r.abandonedOn [i]).abandonedOn is = r.abandonedOn (i :: is) := by
  by_cases hf : r.pending.flight.map Flight.slot = some i
  · rw [abandonedOn_of_mem (List.mem_singleton_self i) hf, abandonedOn_of_mem List.mem_cons_self hf,
      abandonedOn_of_not_mem (by simp [flight_pendingAbandoned])]
  · rw [abandonedOn_of_not_mem (is := [i]) (by simpa using hf)]
    simp only [abandonedOn, List.exists_mem_cons_iff, hf, false_or]

namespace State.FlightsTracked

variable {s : State} (h : s.FlightsTracked)
include h

theorem flight_of_slot {i : SlotNo} {u : SlotUse} (hu : (s.slot i).use = some u) (hp : u.purpose = .update) :
    (s.lineRec u.line).pending.flight.map Flight.slot = some i :=
  (h i u.line).1 ((Slot.names_iff hu _ _).2 ⟨hp, rfl⟩)

theorem slot_of_flight {i : SlotNo} {l : Nat} (hf : (s.lineRec l).pending.flight.map Flight.slot = some i) :
    ∃ u, (s.slot i).use = some u ∧ u.purpose = .update ∧ u.line = l := by
  have hname := (h i l).2 hf
  cases hu : (s.slot i).use with
  | none => rw [Slot.names_eq_false hu] at hname; cases hname
  | some u => exact ⟨u, rfl, (Slot.names_iff hu _ _).1 hname⟩

/-- A line that no UPDATE slot `i` names is not in flight on it, and stays as it is when the slot is abandoned. -/
theorem abandonedOn_of_unnamed {i : SlotNo} {l : Nat}
    (hno : ∀ u, (s.slot i).use = some u → u.purpose = .update → u.line ≠ l) :
    (s.lineRec l).abandonedOn [i] = s.lineRec l := by
  refine LineRecord.abandonedOn_of_not_mem fun j hj hf => ?_
  rw [List.mem_singleton.1 hj] at hf
  obtain ⟨u, hu, hp, hl⟩ := h.slot_of_flight hf
  exact hno u hu hp hl

/-- The abandonment of one slot moves the line in flight on it, and puts it back on the Post List where R95 says so. -/
theorem abandonSlot_moves (i : SlotNo) :
    (∀ l, (s.abandonSlot i).lineRec l = (s.lineRec l).abandonedOn [i])
      ∧ (s.abandonSlot i).postList = s.postList ++ (s.reposted i).toList := by
  unfold State.abandonSlot State.reposted
  cases hu : (s.slot i).use with
  | none =>
    dsimp only
    exact ⟨fun l => (h.abandonedOn_of_unnamed (by simp [hu])).symm, (List.append_nil _).symm⟩
  | some u =>
    cases hp : u.purpose with
    | repair =>
      simp only [hp]
      exact ⟨fun l => (h.abandonedOn_of_unnamed (by simp [hu, hp])).symm, by simp⟩
    | update =>
      have hf := h.flight_of_slot hu hp
      simp only [hp, true_and]
      rw [(s.freeSlot i).abandonLine_of_flight (i := i) (line := u.line) hf]
      refine ⟨fun l => ((s.freeSlot i).lineRec_setRec u.line l _).trans ?_, congrArg (s.postList ++ ·) ?_⟩
      · split
        · next hl => rw [hl, LineRecord.abandonedOn_of_mem (List.mem_singleton_self i) hf]; rfl
        · next hl => exact (h.abandonedOn_of_unnamed fun v hv _ => by rw [hu] at hv; cases hv; exact Ne.symm hl).symm
      · rw [apply_ite Option.toList]
        rfl

theorem abandonSlot (i : SlotNo) : (s.abandonSlot i).FlightsTracked := by
  intro j l
  rw [(h.abandonSlot_moves i).1 l]
  by_cases hji : j = i
  · subst hji
    rw [Slot.names_eq_false (by rw [s.slot_abandonSlot_same])]
    by_cases hf : (s.lineRec l).pending.flight.map Flight.slot = some j
    · rw [LineRecord.abandonedOn_of_mem (List.mem_singleton_self j) hf]
      simp [LineRecord.flight_pendingAbandoned]
    · rw [LineRecord.abandonedOn_of_not_mem (by simpa using hf)]
      simp [hf]
  · rw [s.slot_abandonSlot_other hji]
    by_cases hf : (s.lineRec l).pending.flight.map Flight.slot = some i
    · rw [LineRecord.abandonedOn_of_mem (List.mem_singleton_self i) hf, h j l, hf]
      simp [LineRecord.flight_pendingAbandoned, Ne.symm hji]
    · rw [LineRecord.abandonedOn_of_not_mem (by simpa using hf)]
      exact h j l

/-- What another slot's abandonment would put back on the Post List stays the same. -/
theorem reposted_abandonSlot {i j : SlotNo} (hji : j ≠ i) : (s.abandonSlot i).reposted j = s.reposted j := by
  unfold State.reposted
  rw [s.slot_abandonSlot_other hji]
  cases hu : (s.slot j).use with
  | none => rfl
  | some u =>
    dsimp only
    by_cases hp : u.purpose = .update
    · have hf := h.flight_of_slot hu hp
      have hstays : (s.abandonSlot i).lineRec u.line = s.lineRec u.line := by
        rw [(h.abandonSlot_moves i).1, LineRecord.abandonedOn_of_not_mem]
        rw [hf]
        simpa using hji
      rw [hstays]
    · simp only [hp, false_and, if_false]

/-- The abandonment of the slots of a list, one after the other. -/
theorem abandonAll_moves {is : List SlotNo} (hnodup : is.Nodup) :
    (∀ l, (is.foldl State.abandonSlot s).lineRec l = (s.lineRec l).abandonedOn is)
      ∧ (is.foldl State.abandonSlot s).postList = s.postList ++ is.filterMap s.reposted := by
  induction is generalizing s with
  | nil => exact ⟨fun l => (LineRecord.abandonedOn_of_not_mem (by simp)).symm, (List.append_nil _).symm⟩
  | cons i is ih =>
    obtain ⟨hi, his⟩ := List.nodup_cons.1 hnodup
    obtain ⟨hrec, hposts⟩ := h.abandonSlot_moves i
    obtain ⟨hrecs, hpostss⟩ := ih (h.abandonSlot i) his
    have hreposted : is.filterMap (s.abandonSlot i).reposted = is.filterMap s.reposted :=
      List.filterMap_congr fun j hj => h.reposted_abandonSlot fun hji => hi (hji ▸ hj)
    refine ⟨fun l => ?_, ?_⟩
    · rw [List.foldl_cons, hrecs, hrec, LineRecord.abandonedOn_cons]
    · rw [List.foldl_cons, hpostss, hposts, hreposted, List.append_assoc]
      cases hr : s.reposted i <;> simp [hr]

theorem lineRec_abandonSlots (l : Nat) :
    s.abandonSlots.lineRec l = { s.lineRec l with pending := (s.lineRec l).pendingAbandoned } :=
  ((h.abandonAll_moves (by decide)).1 l).trans (s.lineRec l).abandonedOn_all

theorem postList_abandonSlots : s.abandonSlots.postList = s.postList ++ allSlots.filterMap s.reposted :=
  (h.abandonAll_moves (by decide)).2

omit h in
theorem slot_abandonAll (is : List SlotNo) (s : State) (i : SlotNo) :
    ((is.foldl State.abandonSlot s).slot i).generation = (s.slot i).generation := by
  induction is generalizing s with
  | nil => rfl
  | cons j is ih =>
    rw [List.foldl_cons, ih]
    by_cases hij : i = j
    · rw [hij, s.slot_abandonSlot_same]
    · rw [s.slot_abandonSlot_other hij]

theorem abandons : Abandons s s.abandonSlots := by
  refine ⟨fun i => ?_, fun l => ?_, h.postList_abandonSlots⟩
  · have huse := s.abandonSlots_use i
    have hgeneration : (s.abandonSlots.slot i).generation = (s.slot i).generation := slot_abandonAll allSlots s i
    generalize s.abandonSlots.slot i = x at huse hgeneration
    obtain ⟨generation, use⟩ := x
    subst huse hgeneration
    rfl
  · rw [h.lineRec_abandonSlots]

end State.FlightsTracked
end Sys2Proof.Machine

/-! # Entry to ISOLATED: the loss of carrier, the third loss of a probe, and the timers -/

namespace Sys2Proof.Machine

/-! ## Entry to ISOLATED, whole -/

theorem Abandons.of_same {s t x : State} (h : Abandons s t) (hslots : x.slots = t.slots) (hlines : x.lines = t.lines)
    (hposts : x.postList = t.postList) : Abandons s x := by
  obtain ⟨hslot, hpending, hpostList⟩ := h
  refine ⟨fun i => Eq.trans ?_ (hslot i), fun l => Eq.trans ?_ (hpending l), hposts.trans hpostList⟩
  · simp only [State.slot, hslots]
  · simp only [State.lineRec, hlines]

/-- What entry to ISOLATED says of a state it says of one that differs in the place, the build and the probe record. -/
theorem EntersIsolated.of_same {s t x : State} {detail : RingDownDetail} (h : EntersIsolated s t detail)
    (hslots : x.slots = t.slots) (hlines : x.lines = t.lines) (hposts : x.postList = t.postList)
    (hstation : x.station = t.station) (hnotices : x.notices = t.notices) (hdrain : x.drainPending = t.drainPending) :
    EntersIsolated s x detail := by
  obtain ⟨habandons, hrecs, hisolated, hgives, hpending⟩ := h
  have hrec (l : Nat) : x.lineRec l = t.lineRec l := by simp only [State.lineRec, hlines]
  have hdrained : x.drained = t.drained := State.drained_congr hposts hslots
  refine ⟨habandons.of_same hslots hlines hposts, fun l => ?_, hstation.trans hisolated, ?_, ?_⟩
  · rw [hrec]; exact hrecs l
  · rw [hnotices, hdrained]; exact hgives
  · rw [hdrain, hdrained]; exact hpending

/-- Entry to ISOLATED, with the abandonment and the drain test each named by what it leaves (R155). -/
theorem State.enterIsolated_moves (s : State) (detail : RingDownDetail) :
    ∃ notices drainPending,
      s.enterIsolated detail =
          { s with
            slots := s.abandonSlots.slots, lines := s.abandonSlots.lines, postList := s.abandonSlots.postList
            place := placeIsolated s, build := none, station := .isolated, notices := notices
            drainPending := drainPending }
        ∧ GivesAndDrains s (s.enterIsolated detail) (if s.station = .online then [.ringDown detail] else []) := by
  rw [State.enterIsolated_eq]
  unfold State.isolated
  generalize s.abandonSlots = a
  exact ⟨_, _, State.drainTest_frame _, givesAndDrains_drainTest rfl rfl⟩

/-- Entry to ISOLATED changes the parts that it moves, cancels the build and withdraws what waits in the place (R155). -/
theorem State.enterIsolated_changes (s : State) (detail : RingDownDetail) :
    s.enterIsolated detail =
      { s with
        slots := (s.enterIsolated detail).slots, lines := (s.enterIsolated detail).lines
        postList := (s.enterIsolated detail).postList, place := placeIsolated s, build := none
        station := (s.enterIsolated detail).station, drainPending := (s.enterIsolated detail).drainPending
        notices := (s.enterIsolated detail).notices } := by
  obtain ⟨notices, drainPending, hframe, -⟩ := s.enterIsolated_moves detail
  generalize s.enterIsolated detail = t at hframe
  generalize s.abandonSlots = a at hframe
  rw [hframe]

theorem State.enterIsolated_spec {s : State} (h : s.SlotsAgree) (detail : RingDownDetail) :
    EntersIsolated s (s.enterIsolated detail) detail := by
  obtain ⟨notices, drainPending, hframe, hgives⟩ := s.enterIsolated_moves detail
  have habandons := h.flightsTracked.abandons
  have hrecs := h.flightsTracked.lineRec_abandonSlots
  generalize s.enterIsolated detail = t at hframe hgives
  generalize s.abandonSlots = a at hframe habandons hrecs
  have hlines : t.lines = a.lines := by rw [hframe]
  refine ⟨habandons.of_same (by rw [hframe]) hlines (by rw [hframe]), fun l => ?_, by rw [hframe], hgives⟩
  have hrec : t.lineRec l = a.lineRec l := by simp only [State.lineRec, hlines]
  rw [hrec, hrecs]

/-! ## The loss of carrier -/

/-- Settles O23: the station state decides; JOINING and ONLINE enter ISOLATED once the frame in reception is dropped. -/
theorem carrierLossEntersIsolated : Obligations.CarrierLossEntersIsolated := by
  unfold Obligations.CarrierLossEntersIsolated
  intro s hcarrier
  refine ⟨fun hstation => ?_, fun hstation hagree => ?_⟩
  · rcases hstation with hstation | hstation | hstation <;> simp [exec, execCarrierLost, hcarrier, hstation]
  · have hexec : exec .carrierLost s = .next ({ s with carrier := false, receiving := false }.enterIsolated .carrier) := by
      rcases hstation with hstation | hstation <;> simp [exec, execCarrierLost, hcarrier, hstation]
    have hspec : EntersIsolated s ({ s with carrier := false, receiving := false }.enterIsolated .carrier) .carrier :=
      State.enterIsolated_spec (s := { s with carrier := false, receiving := false }) hagree .carrier
    have hframe := State.enterIsolated_changes { s with carrier := false, receiving := false } .carrier
    generalize State.enterIsolated _ _ = t at hexec hspec hframe
    have hplace : t.place = placeIsolated s := by rw [hframe]; rfl
    have hbuild : t.build = none := by rw [hframe]
    refine ⟨t, hexec, ?_, hspec, hplace, hbuild, sameBytes_of_cells (by rw [hframe]) (by rw [hframe]) (by rw [hframe])⟩
    rw [hplace, hbuild]
    exact hframe

/-! ## The loss of the outstanding probe (R164) -/

/-- The loss of the outstanding probe, before the station state is looked at (R164). -/
def State.probeLost (s : State) : State :=
  { s with probe := { s.probe with outstanding := none, losses := min 3 (s.probe.losses + 1) } }

theorem State.loseProbe_of_borne {s : State} (h : ¬ (s.station = .online ∧ 2 ≤ s.probe.losses)) :
    s.loseProbe = s.probeLost := by
  unfold State.loseProbe
  refine if_neg fun ⟨honline, hlosses⟩ => h ⟨honline, ?_⟩
  omega

theorem State.loseProbe_of_third {s : State} (honline : s.station = .online) (h : 2 ≤ s.probe.losses) :
    s.loseProbe = ({ s with probe := { s.probe with outstanding := none, losses := 3 } } : State).enterIsolated .probes := by
  have hlosses : min 3 (s.probe.losses + 1) = 3 := by omega
  unfold State.loseProbe
  dsimp only
  rw [if_pos ⟨honline, hlosses⟩, hlosses]

/-- The third loss in ONLINE enters ISOLATED with RING-DOWN PROBES (R155, R164). -/
theorem State.loseProbe_spec {s : State} (honline : s.station = .online) (h : 2 ≤ s.probe.losses) (hagree : s.SlotsAgree) :
    s.loseProbe =
        { s with
          probe := { s.probe with outstanding := none, losses := 3 }
          slots := s.loseProbe.slots, lines := s.loseProbe.lines, postList := s.loseProbe.postList
          place := placeIsolated s, build := none, station := s.loseProbe.station
          drainPending := s.loseProbe.drainPending, notices := s.loseProbe.notices }
      ∧ EntersIsolated s s.loseProbe .probes := by
  rw [State.loseProbe_of_third honline h]
  exact ⟨State.enterIsolated_changes _ .probes,
    State.enterIsolated_spec (s := { s with probe := { s.probe with outstanding := none, losses := 3 } }) hagree .probes⟩

/-! ## The timers -/

theorem exec_probeLost_of_deadline {s : State} {p : OutstandingProbe} {d : Nat} (hp : s.probe.outstanding = some p)
    (hd : p.deadline = some d) : exec .probeLost s = .next (s.reach d).loseProbe := by
  obtain ⟨number, deadline⟩ := p
  obtain rfl : deadline = some d := hd
  simp [exec, execProbeLost, hp]

theorem SweepUnit.tick_eq (w : SweepUnit) (online : Bool) :
    w.tick online = { w with due := w.due || online, lag := w.lag || (w.due && online) } := by
  obtain ⟨timer, due, lag, next⟩ := w
  cases online <;> cases due <;> simp [SweepUnit.tick]

/-- Settles O49: the outstanding probe's deadline is a loss of the probe; the two timers keep their spacing. -/
theorem probeAndSweepTimers : Obligations.ProbeAndSweepTimers := by
  unfold Obligations.ProbeAndSweepTimers
  intro s d
  refine ⟨fun p hp hd => ⟨fun hborne => ?_, fun honline hlosses hagree => ?_⟩, fun htimer => ?_, fun htimer => ?_⟩
  · rw [exec_probeLost_of_deadline hp hd, State.loseProbe_of_borne (s := s.reach d) hborne]
    rfl
  · obtain ⟨hframe, hspec⟩ := State.loseProbe_spec (s := s.reach d) honline hlosses hagree
    refine ⟨_, exec_probeLost_of_deadline hp hd, hframe, hspec, ?_⟩
    generalize (s.reach d).loseProbe = t at hframe
    exact sameBytes_of_cells (by rw [hframe]; rfl) (by rw [hframe]; rfl) (by rw [hframe]; rfl)
  · simp [exec, execProbeIntervalExpiry, htimer, State.reach]
  · simp only [exec, execSweepTick, htimer, SweepUnit.tick_eq, State.reach]
    rfl

/-! ## The build of a probe -/

/-- The hand-over of the probe that follows the outstanding one (R75, R161). -/
def State.sendProbe (s : State) : State :=
  { s with
    place := some (Frame.probe s.config.ringSpan s.config.stationNumber s.probe.next s.config.instanceToken
      (1#32 <<< s.config.stationNumber.toNat))
    build := none
    probe := { s.probe with due := false, next := s.probe.next + 1, outstanding := some ⟨s.probe.next, none⟩ } }

/-- Whether the outstanding probe still has a deadline (R164). -/
def State.probeAwaited (s : State) : Bool := (s.probe.outstanding.bind OutstandingProbe.deadline).isSome

theorem State.buildProbe_eq (s : State) : s.buildProbe = (if s.probeAwaited then s.loseProbe else s).sendProbe := by
  have hpresent (b : Byte) : Frame.present 0 b = 1#32 <<< b.toNat := by simp [Frame.present]
  unfold State.buildProbe State.probeAwaited
  simp only [hpresent]
  rcases s.probe.outstanding with - | ⟨number, - | d⟩ <;> rfl

theorem exec_framerChoice_of_probe {s : State} (hplace : s.place = none) (hbuild : s.build = none)
    (hdue : s.probe.due = true) (hactive : s.station.isActive = true) :
    exec .framerChoice s = .next s.buildProbe := by
  rw [exec_framerChoice_of_free hplace hbuild]
  simp [State.choose, State.probeReady, hdue, hactive]

/-- Settles O40: the probe that still has a deadline is lost first; then the next probe is handed over. -/
theorem probeIsBuiltFirst : Obligations.ProbeIsBuiltFirst := by
  unfold Obligations.ProbeIsBuiltFirst
  intro s hplace hbuild hdue hactive lost sent asked
  have hexec := exec_framerChoice_of_probe hplace hbuild hdue hactive
  have hif : (if lost then s.loseProbe else s).sendProbe = s.buildProbe := s.buildProbe_eq.symm
  rw [← hif] at hexec
  refine ⟨fun hlost => ?_, fun hlost hborne => ?_, fun hlost honline hlosses hagree => ?_⟩
  · rw [hexec, if_neg (Bool.eq_false_iff.1 hlost), State.sendProbe, ← hbuild]
  · rw [hexec, if_pos hlost, State.loseProbe_of_borne hborne, State.sendProbe, ← hbuild]
    rfl
  · obtain ⟨hframe, hspec⟩ := State.loseProbe_spec honline hlosses hagree
    rw [if_pos hlost] at hexec
    generalize s.loseProbe = t at hexec hframe hspec
    refine ⟨_, hexec, ?_, hspec.of_same rfl rfl rfl rfl rfl rfl,
      sameBytes_of_cells (by rw [State.sendProbe, hframe]) (by rw [State.sendProbe, hframe]) (by rw [State.sendProbe, hframe])⟩
    rw [State.sendProbe, hframe, ← hbuild]

end Sys2Proof.Machine

/-! # Departure from the ring: LEAVE and the identity clash -/

namespace Sys2Proof.Machine

/-! ## The records at departure -/

theorem State.wf_abandonLine {s : State} (h : Sparse.Wf LineRecord.reset s.lines) (i : SlotNo) (line : Nat) :
    Sparse.Wf LineRecord.reset (s.abandonLine i line).lines := by
  unfold State.abandonLine
  dsimp only
  split
  · split
    · split
      · exact h.set _ _ _
      · exact h.set _ _ _
    · exact h
  · split
    · exact h.set _ _ _
    · exact h
  all_goals exact h

theorem State.wf_abandonSlot {s : State} (h : Sparse.Wf LineRecord.reset s.lines) (i : SlotNo) :
    Sparse.Wf LineRecord.reset (s.abandonSlot i).lines := by
  unfold State.abandonSlot
  split
  · exact h
  · split
    · exact State.wf_abandonLine (s := s.freeSlot i) h i _
    · exact h

/-- The abandonment keeps the canonical form of the records. -/
theorem State.wf_abandonSlots {s : State} (h : Sparse.Wf LineRecord.reset s.lines) :
    Sparse.Wf LineRecord.reset s.abandonSlots.lines :=
  List.foldlRecOn (motive := fun t : State => Sparse.Wf LineRecord.reset t.lines) allSlots State.abandonSlot h
    fun _ ht i _ => State.wf_abandonSlot ht i

theorem Abandons.of_unlisted {s t x : State} (h : Abandons s t) (hslots : x.slots = t.slots)
    (hrecs : ∀ l, x.lineRec l = { t.lineRec l with listed := false }) (hposts : x.postList = t.postList) :
    Abandons s x := by
  obtain ⟨hslot, hpending, hpostList⟩ := h
  refine ⟨fun i => Eq.trans ?_ (hslot i), fun l => Eq.trans ?_ (hpending l), hposts.trans hpostList⟩
  · simp only [State.slot, hslots]
  · rw [hrecs]

/-! ## Departure, whole -/

theorem State.depart_departs {s : State} (hwf : Sparse.Wf LineRecord.reset s.lines) (hagree : s.SlotsAgree)
    (target : StationState) : Departs s (s.depart target) target ∧ DepartFrame s (s.depart target) := by
  rw [State.depart_eq]
  have habandons := hagree.flightsTracked.abandons
  have hrecs := hagree.flightsTracked.lineRec_abandonSlots
  have hunlist := s.abandonSlots.lineRec_unlistAll (State.wf_abandonSlots hwf)
  unfold State.departed
  generalize s.abandonSlots = a at habandons hrecs hunlist
  have hrec (l : Nat) : a.unlistAll.lineRec l =
      { s.lineRec l with pending := (a.unlistAll.lineRec l).pending, listed := false } := by
    rw [hunlist, hrecs]
  refine ⟨⟨habandons.of_unlisted rfl hunlist rfl, hrec, rfl, rfl, rfl, rfl, rfl, rfl, rfl, rfl, rfl, ?_, ?_, ?_⟩, rfl⟩
  · intro hmode
    simp [hmode, State.linkModeDeparted]
  · intro hmode hsending
    simp [hmode, hsending, State.linkModeDeparted]
  · intro hmode hsending
    simp [hmode, hsending, State.linkModeDeparted]

/-- Departure speaks neither of the drain mark nor of the notices. -/
theorem Departs.of_drain {s t : State} {target : StationState} (h : Departs s t target) (notices : List Notice)
    (drainPending : Bool) : Departs s { t with notices, drainPending } target := h

theorem DepartFrame.of_drain {s t : State} (h : DepartFrame s t) (notices : List Notice)
    (drainPending : Bool) : DepartFrame s { t with notices, drainPending } := by
  unfold DepartFrame at *
  rw [h]

/-- A pending drain that is ended gives DRAINED INCOMPLETE (R196). -/
theorem State.endDrain_eq (s : State) :
    s.endDrain =
      { s with
        notices := noticesAfter s.notices (if s.drainPending = true then [.drained .incomplete] else [])
        drainPending := false } := by
  unfold State.endDrain
  split
  · rfl
  · next h =>
    rw [← Bool.eq_false_iff.2 h]
    rfl

theorem State.depart_notices (s : State) (target : StationState) : (s.depart target).notices = s.notices := by
  obtain ⟨_, _, _, _, _, hframe⟩ := s.depart_frame target
  rw [hframe]

theorem State.depart_drainPending (s : State) (target : StationState) :
    (s.depart target).drainPending = s.drainPending := by
  obtain ⟨_, _, _, _, _, hframe⟩ := s.depart_frame target
  rw [hframe]

theorem DepartFrame.sameBytes {s t : State} (h : DepartFrame s t) : SameBytes s t := by
  unfold DepartFrame at h
  exact sameBytes_of_cells (by rw [h]) (by rw [h]) (by rw [h])

/-! ## LEAVE -/

section
variable {s : State} (arg : BitVec 16) (h : PortTakes s)
include h

theorem exec_leave_of_not_active (ha : s.station.isActive = false) :
    exec (.leave arg) s = .next (s.answer 2 arg .wrongState) := by
  simp [exec, execLeave, h.portFree, ha]

theorem exec_leave_of_active (ha : s.station.isActive = true) :
    exec (.leave arg) s = .next ((s.depart .offline).endDrain.answer 2 arg .accepted) := by
  simp [exec, execLeave, h.portFree, ha]

end

/-- The answer to a command speaks of the port's fields alone, which departure leaves. -/
theorem DepartFrame.answer {s t : State} (h : DepartFrame s t) (code : BitVec 8) (arg : BitVec 16)
    (result : CommandResult) : DepartFrame (s.answer code arg result) (t.answer code arg result) := by
  unfold DepartFrame at *
  rw [h]
  rfl

/-- Settles O17: the station state decides; LEAVE departs, ends the drain and answers. -/
theorem leaveEntersOffline : Obligations.LeaveEntersOffline := by
  unfold Obligations.LeaveEntersOffline
  intro s arg hport
  refine ⟨fun hactive => exec_leave_of_not_active arg hport hactive, fun hactive hwf hagree => ?_⟩
  obtain ⟨hdeparts, hframe⟩ := State.depart_departs hwf hagree .offline
  have hnotices := s.depart_notices .offline
  have hdrain := s.depart_drainPending .offline
  have hexec := exec_leave_of_active arg hport hactive
  rw [State.endDrain_eq, hnotices, hdrain] at hexec
  generalize s.depart .offline = t at hexec hdeparts hframe
  refine ⟨_, hexec, (hframe.of_drain _ _).answer 2 arg .accepted, hdeparts, hframe.sameBytes, rfl, rfl⟩

/-! ## The identity clash -/

theorem State.strip_probe_of_clash {s : State} {f : List Byte} (hkind : Frame.kind f = .probe)
    (hforeign : Frame.token f ≠ s.config.instanceToken) : s.strip f = s.enterFault := by
  simp [State.strip, hkind, State.stripProbe, hforeign]

/-- Settles O35: the clash departs to FAULT, gives IDENTITY-CLASH and ends the drain behind it. -/
theorem identityClashEntersFault : Obligations.IdentityClashEntersFault := by
  unfold Obligations.IdentityClashEntersFault
  intro s f sent hstrip hkind hforeign hwf hagree
  have hstripped : s.endReception.strip f = ((s.endReception.depart .fault).give .identityClash).endDrain :=
    State.strip_probe_of_clash (s := s.endReception) hkind hforeign
  have hexec := exec_frameReceivedWhole_of_strip sent hstrip
  obtain ⟨hdeparts, hframe⟩ := State.depart_departs (s := s.endReception) hwf hagree .fault
  have hnotices : _ = s.notices := s.endReception.depart_notices .fault
  have hdrain : _ = s.drainPending := s.endReception.depart_drainPending .fault
  rw [hstripped, State.endDrain_eq] at hexec
  generalize s.endReception.depart .fault = t at hexec hdeparts hframe hnotices hdrain
  refine ⟨_, hexec, hframe.of_drain _ _, hdeparts, hframe.sameBytes, rfl, ?_⟩
  rw [← hnotices, ← hdrain]
  rfl

end Sys2Proof.Machine
